-- ==== Sys2Proof/Word.lean ====
section
/-! DEFINITION. The word, the slot index, and the address values of comp-m2 (spec/00_scope.md R7, R8; spec/20_memory.md R41). -/

namespace Sys2Proof

/-- A word of `WORD_SIZE` = 8 bits: the unit of storage and of instruction encoding (R7, R44). -/
abbrev Word := BitVec 8

/-- An index of `ADDR_WIDTH` = 4 bits: a slot of CODE or of DATA, and the program counter (R21, R41). -/
abbrev Index := BitVec 4

/-- A nibble that is not an index: the opcode field `w[7:4]` (R60). -/
abbrev Nibble := BitVec 4

/-- An address value (R41): a slot of CODE, a slot of DATA, or `NONE_ADDR`, which means "no operand". -/
inductive Addr where
  | code (i : Index)
  | data (i : Index)
  | none
deriving DecidableEq, Repr

end Sys2Proof
end

