-- ==== Sys2Proof/Config.lean ====
section
/-! DEFINITION. The implementation parameters of spec/00_scope.md R5 with the values that rule takes, the check of R6, and
the two parameters that spec/92_eei_decisions.md D25 leaves OPEN. -/

namespace Sys2Proof.Config

/-- `WORD_SIZE` (R5, decision D1; log entry 2). -/
def wordSize : Nat := 8

/-- `ADDR_WIDTH` (R5, decision D2; log entry 2). -/
def addrWidth : Nat := 4

/-- `RAM_SIZE`, the slots of each space (R5, decision D2; log entry 2). -/
def ramSize : Nat := 16

/-- `MAX_VALUE`: what IF_MAX tests and where INC and DEC wrap (R5, decision D4; log entry 2). -/
def maxValue : Word := 255#8

/-- `LAST_ADDRESS`: the final slot of a space (R5, decision D8; log entry 2). -/
def lastAddress : Index := 15#4

/-- `HALT_INDEX`: a WRITE or WRITE_PTR to this DATA slot halts (R5, R103, decision D8; log entry 2). -/
def haltIndex : Index := 15#4

/-- `OUT_INDEX`: the DATA slot PRINT writes (R5, R107, decision D8; log entry 2). -/
def outIndex : Index := 15#4

/-- `BOUND`: the indices bound to AND, OR, INIT and XOR, in this order (R5, R67, decision D6; log entry 1). -/
def bound : List Index := [11#4, 12#4, 13#4, 14#4]

/-- `BOUND_HOSTS`: the opcodes whose operand is tested against `BOUND` (R5, R67, decision D6; log entry 1). -/
def boundHosts : List Nibble := [0x0#4, 0x1#4]

/-- `INIT_SRC`: the fixed second first-order address of INIT (R5, R73, decision D7; log entry 3). -/
def initSrc : Index := 0#4

/-- One choice of the numeric parameters of R5, as numbers. -/
structure Parameters where
  wordSize : Nat
  addrWidth : Nat
  ramSize : Nat
  maxValue : Nat
  lastAddress : Nat
  haltIndex : Nat
  outIndex : Nat
  bound : List Nat
  initSrc : Nat
deriving DecidableEq, Repr

/-- The combinations of values a model admits (R6). -/
def Parameters.admitted (p : Parameters) : Bool :=
  p.wordSize == 2 * p.addrWidth
    && p.ramSize == 2 ^ p.addrWidth
    && p.maxValue == 2 ^ p.wordSize - 1
    && p.haltIndex == p.outIndex && p.outIndex == p.lastAddress && p.lastAddress == p.ramSize - 1
    && p.bound.length == 4 && decide p.bound.Nodup
    && p.bound.all (fun b => decide (b < p.ramSize))
    && !p.bound.contains p.haltIndex && !p.bound.contains p.initSrc

/-- The values this model takes (R5). -/
def parameters : Parameters where
  wordSize := wordSize
  addrWidth := addrWidth
  ramSize := ramSize
  maxValue := maxValue.toNat
  lastAddress := lastAddress.toNat
  haltIndex := haltIndex.toNat
  outIndex := outIndex.toNat
  bound := bound.map BitVec.toNat
  initSrc := initSrc.toNat

/-- `COMMENT_MARKER`: OPEN (R227, decision D25, I13), so a constant with no known value (log entry 17). -/
opaque commentMarker : List Char

/-- `ONE_CHAR`: OPEN (R227, decision D25, I13), so a constant with no known value (log entry 17). -/
opaque oneChar : Char

end Sys2Proof.Config
end

