-- ==== Sys2Proof/Syntax.lean ====
section
/-! DEFINITION. The 23 instructions of spec/opcode_table.json, one constructor per row, in the table's order. An operand
is kept where the spec gives it a meaning (spec/30_encoding.md R62); ignored bits, selector bits and the host bit of the
bound operations are no part of an instruction (R68, R69; log entry 15). -/

namespace Sys2Proof

inductive Instr where
  /-- AND with the bound slot `BOUND[0]` (R151). -/
  | and
  /-- OR with the bound slot `BOUND[1]` (R152). -/
  | or
  /-- INIT: the bound slot `BOUND[2]` from DATA `INIT_SRC` (R154). -/
  | init
  /-- XOR with the bound slot `BOUND[3]` (R153). -/
  | xor
  /-- READ `a`, a direct DATA index (R101). -/
  | read (a : Index)
  /-- WRITE `a`, a direct DATA index; `WRITE 15` is the halt signal (R102, R103). -/
  | write (a : Index)
  /-- ADD `a`, a direct DATA index (R143). -/
  | add (a : Index)
  /-- SUB `a`, a direct DATA index (R144). -/
  | sub (a : Index)
  /-- JUMP `a`, a direct CODE index (R181). -/
  | jump (a : Index)
  /-- IF_MAX `a`, a direct CODE index (R184). -/
  | ifMax (a : Index)
  /-- IF_NOT_MAX `a`, a direct CODE index (R185). -/
  | ifNotMax (a : Index)
  /-- IF_MIN `a`, a direct CODE index (R186). -/
  | ifMin (a : Index)
  /-- IF_NOT_MIN `a`, a direct CODE index (R187). -/
  | ifNotMin (a : Index)
  /-- READ_PTR `a`, a DATA pointer index (R104). -/
  | readPtr (a : Index)
  /-- WRITE_PTR `a`, a DATA pointer index (R105). -/
  | writePtr (a : Index)
  /-- PRINT `a`, a direct DATA index (R107). -/
  | print (a : Index)
  /-- NOT, register only (R148). -/
  | not
  /-- JUMP_REG: the target is in the register (R182). -/
  | jumpReg
  /-- READ_REG: the DATA index is in the register (R106). -/
  | readReg
  /-- SHIFT_L, register only (R149). -/
  | shiftL
  /-- SHIFT_R, register only (R150). -/
  | shiftR
  /-- INC, register only (R145). -/
  | inc
  /-- DEC, register only (R146). -/
  | dec
deriving DecidableEq, Repr

end Sys2Proof
end

