-- ==== Sys2Proof/WellFormed.lean ====
section
/-! DEFINITION. Which terms of `Instr` an instruction word stands for: READ and WRITE have no operand in `BOUND`
(spec/30_encoding.md R67, R78; spec/40_data_transfer.md R101, R102). Every other operand nibble is valid. -/

namespace Sys2Proof

/-- The operand may stand in a READ or a WRITE: it is none of the bound indices (R67). -/
def plainOperand (a : Index) : Bool := !Config.bound.contains a

/-- The check on instructions. -/
def Instr.wellFormed : Instr → Bool
  | .and => true
  | .or => true
  | .init => true
  | .xor => true
  | .read a => plainOperand a
  | .write a => plainOperand a
  | .add _ => true
  | .sub _ => true
  | .jump _ => true
  | .ifMax _ => true
  | .ifNotMax _ => true
  | .ifMin _ => true
  | .ifNotMin _ => true
  | .readPtr _ => true
  | .writePtr _ => true
  | .print _ => true
  | .not => true
  | .jumpReg => true
  | .readReg => true
  | .shiftL => true
  | .shiftR => true
  | .inc => true
  | .dec => true

/-- `i` is an instruction some word stands for. -/
abbrev Instr.WellFormed (i : Instr) : Prop := i.wellFormed = true

end Sys2Proof
end

