-- ==== Sys2Proof/Decode.lean ====
section
/-! DEFINITION. Decode, total on the 256 words (spec/30_encoding.md R60 to R71), the opcode table as data (R66), the
encoder (R78), operand re-encoding (R77), and the host's entry `decodeTableWord`. No word is rejected: the spec defines
no reserved, illegal or hint encoding (R70). -/

namespace Sys2Proof

/-- The opcode nibble `w[7:4]` (R60). -/
def opcode (w : Word) : Nibble := w.extractLsb' 4 4

/-- The operand nibble `w[3:0]` (R60). -/
def operand (w : Word) : Index := w.extractLsb' 0 4

/-- The selector bit `a[0]` of the operand nibble (R62, R68). -/
def selector (a : Index) : Bool := a.getLsbD 0

/-- The word with this opcode nibble and this operand nibble (R60). -/
def wordOf (op : Nibble) (a : Index) : Word := op ++ a

/-- The operation bound to an operand value: its place in `BOUND` selects AND, OR, INIT or XOR (R65, R67). -/
def boundOperation (a : Index) : Option Instr :=
  match Config.bound.idxOf? a with
  | some 0 => some .and
  | some 1 => some .or
  | some 2 => some .init
  | some 3 => some .xor
  | _ => none

/-- The opcode map of R66, for a word that R67 does not reinterpret. -/
def opcodeMap (op : Nibble) (a : Index) : Instr :=
  match op.toNat with
  | 0x0 => .read a
  | 0x1 => .write a
  | 0x2 => .add a
  | 0x3 => .sub a
  | 0x4 => .jump a
  | 0x5 => .ifMax a
  | 0x6 => .ifNotMax a
  | 0x7 => .ifMin a
  | 0x8 => .ifNotMin a
  | 0x9 => .readPtr a
  | 0xA => .writePtr a
  | 0xB => .print a
  | 0xC => if selector a then .readReg else .jumpReg
  | 0xD => .not
  | 0xE => if selector a then .shiftR else .shiftL
  | _ => if selector a then .dec else .inc

/-- Decode (R64, R65): the bound-operand test first, then the opcode map. -/
def decode (w : Word) : Instr :=
  if Config.boundHosts.contains (opcode w) then
    (boundOperation (operand w)).getD (opcodeMap (opcode w) (operand w))
  else
    opcodeMap (opcode w) (operand w)

/-- The canonical word of an instruction (R66, R78): ignored bits 0, and host opcode 0x0 for the bound operations. -/
def encode : Instr → Word
  | .and => wordOf 0x0#4 11#4
  | .or => wordOf 0x0#4 12#4
  | .init => wordOf 0x0#4 13#4
  | .xor => wordOf 0x0#4 14#4
  | .read a => wordOf 0x0#4 a
  | .write a => wordOf 0x1#4 a
  | .add a => wordOf 0x2#4 a
  | .sub a => wordOf 0x3#4 a
  | .jump a => wordOf 0x4#4 a
  | .ifMax a => wordOf 0x5#4 a
  | .ifNotMax a => wordOf 0x6#4 a
  | .ifMin a => wordOf 0x7#4 a
  | .ifNotMin a => wordOf 0x8#4 a
  | .readPtr a => wordOf 0x9#4 a
  | .writePtr a => wordOf 0xA#4 a
  | .print a => wordOf 0xB#4 a
  | .jumpReg => wordOf 0xC#4 0#4
  | .readReg => wordOf 0xC#4 1#4
  | .not => wordOf 0xD#4 0#4
  | .shiftL => wordOf 0xE#4 0#4
  | .shiftR => wordOf 0xE#4 1#4
  | .inc => wordOf 0xF#4 0#4
  | .dec => wordOf 0xF#4 1#4

/-- Operand re-encoding (R77): the word with its operand nibble replaced. -/
def withOperand (w : Word) (i : Index) : Word := wordOf (opcode w) i

/-- One row of spec/opcode_table.json: a word `w` matches when `w & mask = value`, rows of a lower priority number are
tried first, and `make` is the instruction the row stands for, given the operand nibble (R66). -/
structure OpcodeRow where
  mask : Word
  value : Word
  priority : Nat
  make : Index → Instr

/-- The rows of spec/opcode_table.json, in its order (R66). -/
def opcodeTable : List OpcodeRow :=
  [ ⟨0xEF#8, 0x0B#8, 0, fun _ => .and⟩, ⟨0xEF#8, 0x0C#8, 0, fun _ => .or⟩,
    ⟨0xEF#8, 0x0D#8, 0, fun _ => .init⟩, ⟨0xEF#8, 0x0E#8, 0, fun _ => .xor⟩,
    ⟨0xF0#8, 0x00#8, 1, .read⟩, ⟨0xF0#8, 0x10#8, 1, .write⟩,
    ⟨0xF0#8, 0x20#8, 2, .add⟩, ⟨0xF0#8, 0x30#8, 2, .sub⟩,
    ⟨0xF0#8, 0x40#8, 2, .jump⟩, ⟨0xF0#8, 0x50#8, 2, .ifMax⟩,
    ⟨0xF0#8, 0x60#8, 2, .ifNotMax⟩, ⟨0xF0#8, 0x70#8, 2, .ifMin⟩,
    ⟨0xF0#8, 0x80#8, 2, .ifNotMin⟩, ⟨0xF0#8, 0x90#8, 2, .readPtr⟩,
    ⟨0xF0#8, 0xA0#8, 2, .writePtr⟩, ⟨0xF0#8, 0xB0#8, 2, .print⟩,
    ⟨0xF0#8, 0xD0#8, 2, fun _ => .not⟩, ⟨0xF1#8, 0xC0#8, 2, fun _ => .jumpReg⟩,
    ⟨0xF1#8, 0xC1#8, 2, fun _ => .readReg⟩, ⟨0xF1#8, 0xE0#8, 2, fun _ => .shiftL⟩,
    ⟨0xF1#8, 0xE1#8, 2, fun _ => .shiftR⟩, ⟨0xF1#8, 0xF0#8, 2, fun _ => .inc⟩,
    ⟨0xF1#8, 0xF1#8, 2, fun _ => .dec⟩ ]

/-- The rows that match a word at one priority (R66). -/
def matchingRows (w : Word) (p : Nat) : List OpcodeRow :=
  opcodeTable.filter fun r => w &&& r.mask == r.value && r.priority == p

/-- What the table reads from a word: the instructions of its matching rows at the lowest priority that has one (R66). -/
def decodeByTable (w : Word) : List Instr :=
  let rows :=
    match matchingRows w 0, matchingRows w 1 with
    | [], [] => matchingRows w 2
    | [], rs => rs
    | rs, _ => rs
  rows.map fun r => r.make (operand w)

/-- The instruction the decoder reads from a table row's word. Every row has 8 bits, and an instruction is one word (R61):
anything longer is refused. -/
def decodeTableWord (nbits w : Nat) : Option Instr :=
  if nbits ≤ 8 ∧ w < 256 then some (decode (BitVec.ofNat 8 w)) else none

end Sys2Proof
end

