-- ==== Sys2Proof/Machine/State.lean ====
section
/-! DEFINITION. The state of the machine as plain data (spec/10_state.md R20 to R31), the reasons a step can stop, and the
state after reset (spec/70_reset_and_hazards.md R220, R224). -/

namespace Sys2Proof.Machine

/-- One address space: the slots that do not hold 0x00, as (slot, word) pairs with the slots strictly rising. A slot that
is not listed holds the empty word 0x00 (spec/20_memory.md R55; log entry 16). -/
abbrev Memory := List Host.Cell

/-- The run state (R25). -/
inductive RunState where
  /-- A step request executes one instruction. -/
  | running
  /-- The terminal condition: a step request executes nothing (R203). -/
  | halted
deriving DecidableEq, Repr

/-- The run controller's copy of the whole memory (R225). -/
structure Snapshot where
  code : Memory
  data : Memory
deriving DecidableEq, Repr

/-- Everything the spec gives the machine. -/
structure State where
  /-- The program counter: the CODE index of the instruction to execute (R21). -/
  pc : Index
  /-- The one general register (R23). -/
  reg : Word
  /-- The run state (R25). -/
  run : RunState
  /-- The host's pending cancellation request, `cancel_req` (R27). -/
  cancelReq : Bool
  /-- The space CODE (R28). -/
  code : Memory
  /-- The space DATA (R28). -/
  data : Memory
  /-- The memory as it was before the run, held while a run is active (R225, R226; log entry 10). -/
  snapshot : Option Snapshot
deriving DecidableEq, Repr

/-- The machine when its memory is first created: every slot 0x00 (R55, R224) and a fresh CPU state (R220); no run is
active (log entries 6 and 10). -/
def State.reset : State where
  pc := 0#4
  reg := 0x00#8
  run := .running
  cancelReq := false
  code := []
  data := []
  snapshot := none

/-- Why a step can stop with a fault: for no reason at all. The block raises no exception of any kind, and no access is
out of range (spec/60_exceptions.md R200, spec/20_memory.md R46), so there is no constructor and no step faults
(log entry 23). -/
inductive Fault where
deriving DecidableEq, Repr

/-- Why an operation is given no meaning. No instruction reaches the last two (log entry 12). -/
inductive Refusal where
  /-- Raised by `exec` for an instruction that has no meaning yet; every instruction has one, so nobody raises it. Safe. -/
  | notModelled (mnemonic : String)
  /-- Raised by the operations that use an address as a slot, when it is `NONE_ADDR`: it must never be dereferenced, and
  a model that forms such an access refuses it (spec/93_implementation_defined.md I8). Safe. -/
  | noneDereferenced
  /-- Raised by the same operations when the slot is in the other space: a store to CODE (spec/20_memory.md R56), a data
  operand in CODE (R42) or a transfer to DATA (spec/42_control.md R190). Safe. -/
  | wrongSpace
deriving DecidableEq, Repr

/-- What a meaning and a step answer. -/
abbrev Result := Host.Outcome State Fault Refusal

/-- What executing one instruction produces, to be written at the end of the step (spec/40_data_transfer.md R100): the next
pc, the next register, at most one DATA write, and whether the step halts. -/
structure Effect where
  npc : Index
  nreg : Word
  write : Option (Index × Word)
  halt : Bool
deriving DecidableEq, Repr

end Sys2Proof.Machine
end

