-- ==== Sys2Proof/Machine/Ops.lean ====
section
/-! DEFINITION. The named operations over memory and registers: reading and writing a slot (spec/20_memory.md R56), the
sequential advance (spec/10_state.md R22), word arithmetic (spec/41_alu.md R141, R142, R145, R146, R149, R150), and the one
place where a step's effect is written (spec/40_data_transfer.md R100, spec/70_reset_and_hazards.md R233).

There is no exception to take and none to return from: the block has no trap mechanism (spec/60_exceptions.md R200, R206).
The only event an instruction can report is the halt (R205); `commit` performs it. -/

namespace Sys2Proof.Machine

/-- The word in slot `i`; an unlisted slot holds the empty word 0x00 (R55). -/
def Memory.read : Memory → Index → Word
  | [], _ => 0x00#8
  | (k, v) :: m, i => if k = i.toNat then v else Memory.read m i

/-- The memory whose slot `i` holds `f i`, in canonical form. -/
def Memory.ofFn (f : Index → Word) : Memory :=
  (List.range' 0 Config.ramSize).filterMap fun k =>
    if f (BitVec.ofNat 4 k) = 0x00#8 then none else some (k, f (BitVec.ofNat 4 k))

/-- Slot `i` replaced by `v`, every other slot as it was (R56). -/
def Memory.write (m : Memory) (i : Index) (v : Word) : Memory :=
  Memory.ofFn fun j => if j = i then v else Memory.read m j

/-- From slot `lo` on: slots strictly rising and in range, and no entry equal to what an unlisted slot reads as. -/
def Memory.wfFrom : Nat → Memory → Bool
  | _, [] => true
  | lo, (k, v) :: m => decide (lo ≤ k) && decide (k < Config.ramSize) && (v != 0x00#8) && Memory.wfFrom (k + 1) m

/-- The canonical form of a memory (log entry 16). -/
def Memory.wf (m : Memory) : Bool := Memory.wfFrom 0 m

/-- `MemRead(CODE, i)` (R56). -/
def codeWord (s : State) (i : Index) : Word := Memory.read s.code i

/-- `MemRead(DATA, i)` (R56). -/
def dataWord (s : State) (i : Index) : Word := Memory.read s.data i

/-- `MemWrite(DATA, i, v)` on the DATA space (R56). -/
def writeData (m : Memory) (w : Option (Index × Word)) : Memory :=
  match w with
  | none => m
  | some (i, v) => Memory.write m i v

/-- Fetch: the one word at `CODE[pc]` (spec/30_encoding.md R61). -/
def fetch (s : State) : Word := codeWord s s.pc

/-- The sequential advance `pc +a 1`, which wraps from 15 to 0 (R22). -/
def advance (pc : Index) : Index := pc + 1#4

/-- The index a word names when it is used as an address: its low `ADDR_WIDTH` bits (spec/30_encoding.md R75). -/
def wordIndex (v : Word) : Index := v.extractLsb' 0 4

/-- Saturating addition (R141): the exact sum, clamped at `2^WORD_SIZE - 1`. -/
def satAdd (x y : Word) : Word := BitVec.ofNat 8 (min (x.toNat + y.toNat) (2 ^ Config.wordSize - 1))

/-- Saturating subtraction (R142): the exact difference of the integers, clamped at 0. -/
def satSub (x y : Word) : Word := BitVec.ofInt 8 (max ((x.toNat : Int) - (y.toNat : Int)) 0)

/-- Increment that wraps from `MAX_VALUE` to 0 (R145). -/
def incWrap (x : Word) : Word := if x = Config.maxValue then 0x00#8 else x + 1#8

/-- Decrement that wraps from 0 to `MAX_VALUE` (R146). -/
def decWrap (x : Word) : Word := if x = 0x00#8 then Config.maxValue else x - 1#8

/-- Logical shift left by one: `x[6:0] : 0b0` (R149). -/
def shiftLeftOne (x : Word) : Word := x.extractLsb' 0 7 ++ 0#1

/-- Logical shift right by one: `0b0 : x[7:1]` (R150). -/
def shiftRightOne (x : Word) : Word := 0#1 ++ x.extractLsb' 1 7

/-- The end of a step (R100, R233): the writes of pc, register, DATA and run state take effect together. A step runs only
in RUNNING, so a run state left alone is RUNNING, as R100 says (log entry 14). -/
def commit (s : State) (e : Effect) : State :=
  { s with
    pc := e.npc
    reg := e.nreg
    run := if e.halt then .halted else s.run
    data := writeData s.data e.write }

/-- A sequential instruction that writes the register and nothing else. -/
def nextReg (s : State) (v : Word) : Result :=
  .next (commit s { npc := advance s.pc, nreg := v, write := none, halt := false })

/-- A sequential instruction that writes one DATA slot and nothing else; `halt` is the halt signal of R103. -/
def nextStore (s : State) (i : Index) (v : Word) (halt : Bool) : Result :=
  .next (commit s { npc := advance s.pc, nreg := s.reg, write := some (i, v), halt := halt })

/-- An instruction that only sets the program counter (spec/42_control.md R180). -/
def nextPc (s : State) (target : Index) : Result :=
  .next (commit s { npc := target, nreg := s.reg, write := none, halt := false })

/-- Uses an effective address as a DATA slot. Refused at NONE (I8) and in CODE (R42, R56); no instruction does either. -/
def onData (a : Addr) (k : Index → Result) : Result :=
  match a with
  | .data i => k i
  | .code _ => .refused .wrongSpace
  | .none => .refused .noneDereferenced

/-- Uses an effective address as a CODE index, a jump target. Refused at NONE (I8) and in DATA (spec/42_control.md R190);
no instruction does either. -/
def onCode (a : Addr) (k : Index → Result) : Result :=
  match a with
  | .code i => k i
  | .data _ => .refused .wrongSpace
  | .none => .refused .noneDereferenced

/-- A fresh CPU state (spec/70_reset_and_hazards.md R220): the block's only reset. Memory is left alone (R223). -/
def freshCpu (s : State) : State :=
  { s with pc := 0#4, reg := 0x00#8, run := .running, cancelReq := false }

end Sys2Proof.Machine
end

