-- ==== Sys2Proof/Machine/Operands.lean ====
section
/-! DEFINITION. The two stages of address resolution (spec/30_encoding.md R73, R74, R80): the first-order addresses, a
function of the instruction alone, and the effective address, which reads the register and DATA and writes nothing. -/

namespace Sys2Proof.Machine

/-- The DATA slot of the bound operation at place `n` of `BOUND` (R67, R73). -/
def boundAddr (n : Nat) : Addr :=
  match Config.bound[n]? with
  | some i => .data i
  | none => .none

/-- First-order operand decode (R73): one address, or two for INIT. -/
def firstOrder : Instr → List Addr
  | .and => [boundAddr 0]
  | .or => [boundAddr 1]
  | .init => [boundAddr 2, .data Config.initSrc]
  | .xor => [boundAddr 3]
  | .read a => [.data a]
  | .write a => [.data a]
  | .add a => [.data a]
  | .sub a => [.data a]
  | .jump a => [.code a]
  | .ifMax a => [.code a]
  | .ifNotMax a => [.code a]
  | .ifMin a => [.code a]
  | .ifNotMin a => [.code a]
  | .readPtr a => [.data a]
  | .writePtr a => [.data a]
  | .print a => [.data a]
  | .not => [.none]
  | .jumpReg => [.none]
  | .readReg => [.none]
  | .shiftL => [.none]
  | .shiftR => [.none]
  | .inc => [.none]
  | .dec => [.none]

/-- `decodeOperands(w)`: the first-order addresses of the instruction a word stands for (R73). -/
def decodeOperands (w : Word) : List Addr := firstOrder (decode w)

/-- `fo[n]`: the first-order address at place `n`; NONE where there is none. -/
def firstOrderAt (i : Instr) (n : Nat) : Addr := ((firstOrder i)[n]?).getD .none

/-- The address a pointer in DATA names: one level of indirection, low bits only (R74, R75). -/
def derefPointer (s : State) (a : Addr) : Addr :=
  match a with
  | .data j => .data (wordIndex (dataWord s j))
  | .code _ => .none
  | .none => .none

/-- Effective-address resolution (R74). -/
def resolve (i : Instr) (s : State) : Addr :=
  match i with
  | .and => firstOrderAt .and 0
  | .or => firstOrderAt .or 0
  | .init => firstOrderAt .init 0
  | .xor => firstOrderAt .xor 0
  | .read a => firstOrderAt (.read a) 0
  | .write a => firstOrderAt (.write a) 0
  | .add a => firstOrderAt (.add a) 0
  | .sub a => firstOrderAt (.sub a) 0
  | .jump a => firstOrderAt (.jump a) 0
  | .ifMax a => firstOrderAt (.ifMax a) 0
  | .ifNotMax a => firstOrderAt (.ifNotMax a) 0
  | .ifMin a => firstOrderAt (.ifMin a) 0
  | .ifNotMin a => firstOrderAt (.ifNotMin a) 0
  | .readPtr a => derefPointer s (firstOrderAt (.readPtr a) 0)
  | .writePtr a => derefPointer s (firstOrderAt (.writePtr a) 0)
  | .print a => firstOrderAt (.print a) 0
  | .jumpReg => .code (wordIndex s.reg)
  | .readReg => .data (wordIndex s.reg)
  | .not => .none
  | .shiftL => .none
  | .shiftR => .none
  | .inc => .none
  | .dec => .none

/-- How an instruction moves the program counter (R72). -/
inductive Category where
  | sequential
  | transfer
  | conditional
deriving DecidableEq, Repr

/-- The category of each of the 23 variants (R72). -/
def category : Instr → Category
  | .and => .sequential
  | .or => .sequential
  | .init => .sequential
  | .xor => .sequential
  | .read _ => .sequential
  | .write _ => .sequential
  | .add _ => .sequential
  | .sub _ => .sequential
  | .jump _ => .transfer
  | .ifMax _ => .conditional
  | .ifNotMax _ => .conditional
  | .ifMin _ => .conditional
  | .ifNotMin _ => .conditional
  | .readPtr _ => .sequential
  | .writePtr _ => .sequential
  | .print _ => .sequential
  | .not => .sequential
  | .jumpReg => .transfer
  | .readReg => .sequential
  | .shiftL => .sequential
  | .shiftR => .sequential
  | .inc => .sequential
  | .dec => .sequential

end Sys2Proof.Machine
end

