-- ==== Sys2Proof/Machine/Alu.lean ====
section
/-! DEFINITION. The arithmetic and logic instructions (spec/41_alu.md R143 to R154). ADD and SUB clamp, INC and DEC wrap
(R147). -/

namespace Sys2Proof.Machine

/-- ADD (R143). -/
def execAdd (a : Index) (s : State) : Result :=
  onData (resolve (.add a) s) fun i => nextReg s (satAdd s.reg (dataWord s i))

/-- SUB (R144). -/
def execSub (a : Index) (s : State) : Result :=
  onData (resolve (.sub a) s) fun i => nextReg s (satSub s.reg (dataWord s i))

/-- INC (R145). -/
def execInc (s : State) : Result := nextReg s (incWrap s.reg)

/-- DEC (R146). -/
def execDec (s : State) : Result := nextReg s (decWrap s.reg)

/-- NOT (R148; decision D14, log entry 4). -/
def execNot (s : State) : Result := nextReg s (~~~ s.reg)

/-- SHIFT_L (R149; decision D13, log entry 4). -/
def execShiftL (s : State) : Result := nextReg s (shiftLeftOne s.reg)

/-- SHIFT_R (R150; decision D13, log entry 4). -/
def execShiftR (s : State) : Result := nextReg s (shiftRightOne s.reg)

/-- AND with the bound slot 11 (R151; decision D14, log entry 4). -/
def execAnd (s : State) : Result :=
  onData (resolve .and s) fun i => nextReg s (s.reg &&& dataWord s i)

/-- OR with the bound slot 12 (R152; decision D14, log entry 4). -/
def execOr (s : State) : Result :=
  onData (resolve .or s) fun i => nextReg s (s.reg ||| dataWord s i)

/-- XOR with the bound slot 14 (R153; decision D14, log entry 4). -/
def execXor (s : State) : Result :=
  onData (resolve .xor s) fun i => nextReg s (s.reg ^^^ dataWord s i)

/-- INIT (R154): the bound slot 13 from the fixed slot `INIT_SRC`, its second first-order address, which is read in
execution (R74). The data movement is the spec's own decision D7 (log entry 3). -/
def execInit (s : State) : Result :=
  onData (resolve .init s) fun i =>
    onData (firstOrderAt .init 1) fun src => nextStore s i (dataWord s src) false

end Sys2Proof.Machine
end

