-- ==== Sys2Proof/Machine/Flags.lean ====
section
/-! DEFINITION. The machine has no flags (spec/10_state.md R24): the conditional instructions test the register itself when
they execute. These are the two tests of spec/42_control.md R183; the other two are their negations. -/

namespace Sys2Proof.Machine

/-- `uint(reg) = MAX_VALUE` (R183). -/
def regIsMax (s : State) : Bool := s.reg.toNat == Config.maxValue.toNat

/-- `uint(reg) = 0` (R183). -/
def regIsMin (s : State) : Bool := s.reg.toNat == 0

/-- A conditional branch: to the effective CODE address if the test holds, else the sequential advance (R183). -/
def branch (s : State) (taken : Bool) (a : Addr) : Result :=
  onCode a fun target => nextPc s (if taken then target else advance s.pc)

end Sys2Proof.Machine
end

