-- ==== Sys2Proof/Machine/Control.lean ====
section
/-! DEFINITION. The control transfer instructions (spec/42_control.md R180 to R187). -/

namespace Sys2Proof.Machine

/-- JUMP (R181). -/
def execJump (a : Index) (s : State) : Result :=
  onCode (resolve (.jump a) s) fun target => nextPc s target

/-- JUMP_REG (R182): the target is `reg[3:0]`. -/
def execJumpReg (s : State) : Result :=
  onCode (resolve .jumpReg s) fun target => nextPc s target

/-- IF_MAX (R184). -/
def execIfMax (a : Index) (s : State) : Result := branch s (regIsMax s) (resolve (.ifMax a) s)

/-- IF_NOT_MAX (R185). -/
def execIfNotMax (a : Index) (s : State) : Result := branch s (!regIsMax s) (resolve (.ifNotMax a) s)

/-- IF_MIN (R186). -/
def execIfMin (a : Index) (s : State) : Result := branch s (regIsMin s) (resolve (.ifMin a) s)

/-- IF_NOT_MIN (R187). -/
def execIfNotMin (a : Index) (s : State) : Result := branch s (!regIsMin s) (resolve (.ifNotMin a) s)

end Sys2Proof.Machine
end

