-- ==== Sys2Proof/Machine/DataTransfer.lean ====
section
/-! DEFINITION. The data transfer instructions (spec/40_data_transfer.md R101 to R107). -/

namespace Sys2Proof.Machine

/-- READ (R101): `reg <- DATA[a]`. -/
def execRead (a : Index) (s : State) : Result :=
  onData (resolve (.read a) s) fun i => nextReg s (dataWord s i)

/-- WRITE (R102): `DATA[a] <- reg`; a write to `HALT_INDEX` is the halt signal (R103). -/
def execWrite (a : Index) (s : State) : Result :=
  onData (resolve (.write a) s) fun i => nextStore s i s.reg (i == Config.haltIndex)

/-- READ_PTR (R104): `reg <- DATA[p]` with `p = DATA[a][3:0]`. -/
def execReadPtr (a : Index) (s : State) : Result :=
  onData (resolve (.readPtr a) s) fun i => nextReg s (dataWord s i)

/-- WRITE_PTR (R105): `DATA[p] <- reg` with `p = DATA[a][3:0]` read before the write; the halt signal is tested on the
effective address (R103). -/
def execWritePtr (a : Index) (s : State) : Result :=
  onData (resolve (.writePtr a) s) fun i => nextStore s i s.reg (i == Config.haltIndex)

/-- READ_REG (R106): `reg <- DATA[reg[3:0]]`. -/
def execReadReg (s : State) : Result :=
  onData (resolve .readReg s) fun i => nextReg s (dataWord s i)

/-- PRINT (R107): `DATA[OUT_INDEX] <- DATA[a]`. It never halts: its effective address is its source (R103). -/
def execPrint (a : Index) (s : State) : Result :=
  onData (resolve (.print a) s) fun i => nextStore s Config.outIndex (dataWord s i) false

end Sys2Proof.Machine
end

