-- ==== Sys2Proof/Machine/Dispatch.lean ====
section
/-! DEFINITION. The dispatch of an instruction to its meaning, one arm per constructor. -/

namespace Sys2Proof.Machine

def exec (i : Instr) (s : State) : Host.Outcome State Fault Refusal :=
  match i with
  | .and => Sys2Proof.Machine.execAnd s
  | .or => Sys2Proof.Machine.execOr s
  | .init => Sys2Proof.Machine.execInit s
  | .xor => Sys2Proof.Machine.execXor s
  | .read a => Sys2Proof.Machine.execRead a s
  | .write a => Sys2Proof.Machine.execWrite a s
  | .add a => Sys2Proof.Machine.execAdd a s
  | .sub a => Sys2Proof.Machine.execSub a s
  | .jump a => Sys2Proof.Machine.execJump a s
  | .ifMax a => Sys2Proof.Machine.execIfMax a s
  | .ifNotMax a => Sys2Proof.Machine.execIfNotMax a s
  | .ifMin a => Sys2Proof.Machine.execIfMin a s
  | .ifNotMin a => Sys2Proof.Machine.execIfNotMin a s
  | .readPtr a => Sys2Proof.Machine.execReadPtr a s
  | .writePtr a => Sys2Proof.Machine.execWritePtr a s
  | .print a => Sys2Proof.Machine.execPrint a s
  | .not => Sys2Proof.Machine.execNot s
  | .jumpReg => Sys2Proof.Machine.execJumpReg s
  | .readReg => Sys2Proof.Machine.execReadReg s
  | .shiftL => Sys2Proof.Machine.execShiftL s
  | .shiftR => Sys2Proof.Machine.execShiftR s
  | .inc => Sys2Proof.Machine.execInc s
  | .dec => Sys2Proof.Machine.execDec s

end Sys2Proof.Machine
end

