-- ==== Sys2Proof/Machine/Step.lean ====
section
/-! DEFINITION. One step of the block (spec/40_data_transfer.md R100), and where the next instruction is fetched. -/

namespace Sys2Proof.Machine

/-- One step (R100): in HALTED nothing happens (R203); in RUNNING the word at `CODE[pc]` is fetched, decoded and executed.
The step does not look at the cancellation request: the run controller does, before it asks for a step (R204, log entry 8). -/
def step (s : State) : Host.Outcome State Fault Refusal :=
  match s.run with
  | .halted => .next s
  | .running => exec (decode (fetch s)) s

/-- `s` with an instruction word stored where the next step fetches, and RUNNING, so that the next step runs it
(log entry 21). -/
def State.withFetchWord (s : State) (nbits w : Nat) : State :=
  { s with run := .running, code := Memory.write s.code s.pc (BitVec.ofNat 8 (w % 2 ^ nbits)) }

end Sys2Proof.Machine
end

