-- ==== Sys2Proof/Machine/Assembly.lean ====
section
/-! DEFINITION. The assembler and disassembler text of one instruction (spec/30_encoding.md R78, R79), as lists of
characters. What R78 does not fix of the text is log entry 22. -/

namespace Sys2Proof.Machine

/-- The mnemonic of an instruction (R78). -/
def mnemonic : Instr → List Char
  | .and => ['A', 'N', 'D']
  | .or => ['O', 'R']
  | .init => ['I', 'N', 'I', 'T']
  | .xor => ['X', 'O', 'R']
  | .read _ => ['R', 'E', 'A', 'D']
  | .write _ => ['W', 'R', 'I', 'T', 'E']
  | .add _ => ['A', 'D', 'D']
  | .sub _ => ['S', 'U', 'B']
  | .jump _ => ['J', 'U', 'M', 'P']
  | .ifMax _ => ['I', 'F', '_', 'M', 'A', 'X']
  | .ifNotMax _ => ['I', 'F', '_', 'N', 'O', 'T', '_', 'M', 'A', 'X']
  | .ifMin _ => ['I', 'F', '_', 'M', 'I', 'N']
  | .ifNotMin _ => ['I', 'F', '_', 'N', 'O', 'T', '_', 'M', 'I', 'N']
  | .readPtr _ => ['R', 'E', 'A', 'D', '_', 'P', 'T', 'R']
  | .writePtr _ => ['W', 'R', 'I', 'T', 'E', '_', 'P', 'T', 'R']
  | .print _ => ['P', 'R', 'I', 'N', 'T']
  | .not => ['N', 'O', 'T']
  | .jumpReg => ['J', 'U', 'M', 'P', '_', 'R', 'E', 'G']
  | .readReg => ['R', 'E', 'A', 'D', '_', 'R', 'E', 'G']
  | .shiftL => ['S', 'H', 'I', 'F', 'T', '_', 'L']
  | .shiftR => ['S', 'H', 'I', 'F', 'T', '_', 'R']
  | .inc => ['I', 'N', 'C']
  | .dec => ['D', 'E', 'C']

/-- The operand that is written, if the instruction has one (R78). -/
def writtenOperand : Instr → Option Index
  | .and => none
  | .or => none
  | .init => none
  | .xor => none
  | .read a => some a
  | .write a => some a
  | .add a => some a
  | .sub a => some a
  | .jump a => some a
  | .ifMax a => some a
  | .ifNotMax a => some a
  | .ifMin a => some a
  | .ifNotMin a => some a
  | .readPtr a => some a
  | .writePtr a => some a
  | .print a => some a
  | .not => none
  | .jumpReg => none
  | .readReg => none
  | .shiftL => none
  | .shiftR => none
  | .inc => none
  | .dec => none

/-- The instructions written with an operand (R78). -/
def operandForms : List (Index → Instr) :=
  [.read, .write, .add, .sub, .print, .readPtr, .writePtr, .jump, .ifMax, .ifNotMax, .ifMin, .ifNotMin]

/-- The instructions written without an operand (R78). -/
def plainForms : List Instr :=
  [.jumpReg, .readReg, .not, .shiftL, .shiftR, .inc, .dec, .and, .or, .init, .xor]

/-- The digits, in order of value. -/
def digits : List Char := ['0', '1', '2', '3', '4', '5', '6', '7', '8', '9', 'A', 'B', 'C', 'D', 'E', 'F']

/-- The value of a digit in a base. -/
def digitValue (base : Nat) (c : Char) : Option Nat := (digits.take base).idxOf? c

/-- An operand: a decimal index 0 to 15, or hex `0x0` to `0xF` (R78). -/
def parseOperand : List Char → Option Index
  | [c] => (digitValue 10 c).map (BitVec.ofNat 4)
  | ['1', c] => (digitValue 6 c).map fun d => BitVec.ofNat 4 (10 + d)
  | ['0', 'x', c] => (digitValue 16 c).map (BitVec.ofNat 4)
  | _ => none

/-- An index in decimal. -/
def printOperand (i : Index) : List Char :=
  if i.toNat < 10 then [digits.getD i.toNat '0'] else ['1', digits.getD (i.toNat - 10) '0']

/-- Disassembly (R78): the mnemonic of `decode(w)`, and the operand if it has one. -/
def disassemble (w : Word) : List Char :=
  match writtenOperand (decode w) with
  | none => mnemonic (decode w)
  | some a => mnemonic (decode w) ++ ' ' :: printOperand a

/-- The instruction of one line, `MNEMONIC [operand]`; HALT is the pseudo-instruction of R79. -/
def parseLine (line : List Char) : Option Instr :=
  match line.span (· != ' ') with
  | (name, []) =>
    if name = ['H', 'A', 'L', 'T'] then some (.write Config.haltIndex)
    else plainForms.find? fun i => mnemonic i == name
  | (name, _ :: text) =>
    match operandForms.find? (fun make => mnemonic (make 0#4) == name), parseOperand text with
    | some make, some a => some (make a)
    | _, _ => none

/-- Assembly (R78): the canonical word. READ and WRITE of a bound index are rejected. -/
def assemble (line : List Char) : Option Word :=
  match parseLine line with
  | some i => if i.wellFormed then some (encode i) else none
  | none => none

end Sys2Proof.Machine
end

