-- ==== Sys2Proof/Machine/HostQuery.lean ====
section
/-! DEFINITION. The host's read-only queries (spec/60_exceptions.md R209, spec/70_reset_and_hazards.md R231): the words of
CODE and DATA, pc and register, and the binding query (spec/30_encoding.md R76). -/

namespace Sys2Proof.Machine

/-- The read-only view of the machine between two steps (R209). -/
structure View where
  code : List Word
  data : List Word
  pc : Index
  reg : Word
deriving DecidableEq, Repr

/-- Every index, in order. -/
def allIndices : List Index := (List.range Config.ramSize).map (BitVec.ofNat 4)

/-- The query of CODE, DATA, pc and register (R209, R231). -/
def view (s : State) : View where
  code := allIndices.map (codeWord s)
  data := allIndices.map (dataWord s)
  pc := s.pc
  reg := s.reg

/-- `lastNonEmpty(CODE)`: the highest CODE index whose word is not 0x00, if there is one (R76). -/
def lastNonEmpty (s : State) : Option Index :=
  allIndices.reverse.find? fun k => codeWord s k != 0x00#8

/-- The instruction is one of the bound operations (R67, R76). -/
def isBoundOperation : Instr → Bool
  | .and => true
  | .or => true
  | .init => true
  | .xor => true
  | .read _ => false
  | .write _ => false
  | .add _ => false
  | .sub _ => false
  | .jump _ => false
  | .ifMax _ => false
  | .ifNotMax _ => false
  | .ifMin _ => false
  | .ifNotMin _ => false
  | .readPtr _ => false
  | .writePtr _ => false
  | .print _ => false
  | .not => false
  | .jumpReg => false
  | .readReg => false
  | .shiftL => false
  | .shiftR => false
  | .inc => false
  | .dec => false

/-- The binding query `bound_at(i)` (R76): an effective CODE slot, up to the last non-empty one, holds a bound operation
whose operand nibble is `i` (decision D30, log entry 24). -/
def boundAt (s : State) (i : Index) : Bool :=
  match lastNonEmpty s with
  | none => false
  | some n =>
    allIndices.any fun k =>
      decide (k.toNat ≤ n.toNat) && isBoundOperation (decode (codeWord s k)) && (operand (codeWord s k) == i)

end Sys2Proof.Machine
end

