-- ==== Sys2Proof/Machine/Image.lean ====
section
/-! DEFINITION. Memory image load, the source of the initial memory (spec/70_reset_and_hazards.md R227 to R229). An image is
a list of lines, each a list of characters (log entry 18). The comment marker and the 1-character are OPEN (log entry 17).
Load never runs during a run: that is the host's duty (R229, R231; log entry 19). -/

namespace Sys2Proof.Machine

/-- A line that gives no word: empty, or begun by the comment marker (R227 step 1). -/
def skippedLine (line : List Char) : Bool := line.isEmpty || Config.commentMarker.isPrefixOf line

/-- The truth predicate of a character: `ONE_CHAR` is a 1, anything else a 0, and so is a character that is missing from
a short line (R227 step 3, R228). -/
def lineBit (line : List Char) (k : Nat) : Bool :=
  match (line)[k]? with
  | some c => c == Config.oneChar
  | none => false

/-- The word of a line: its first `WORD_SIZE` characters, the first of them bit 7 (R227 step 2, R228). -/
def lineWord (line : List Char) : Word :=
  BitVec.ofNat 8 ((List.range Config.wordSize).foldl (fun n k => 2 * n + (lineBit line k).toNat) 0)

/-- The words of an image in order (R227 steps 1 to 3). -/
def imageWords (lines : List (List Char)) : List Word :=
  (lines.filter fun line => !skippedLine line).map lineWord

/-- Words into CODE 0 to 15, then DATA 0 to 15; slots not reached keep their content, and words after the 32nd are not
used (R227 steps 4 and 5). -/
def loadWords (ws : List Word) (s : State) : State :=
  { s with
    code := Memory.ofFn fun i => (ws[i.toNat]?).getD (codeWord s i)
    data := Memory.ofFn fun i => (ws[Config.ramSize + i.toNat]?).getD (dataWord s i) }

/-- What the caller of a load is told (R229). -/
inductive LoadReport where
  | loaded
  | cannotOpen
deriving DecidableEq, Repr

/-- Image load (R227): `none` is a source that cannot be opened, which is reported and changes nothing (R229). -/
def loadImage (source : Option (List (List Char))) (s : State) : LoadReport × State :=
  match source with
  | none => (.cannotOpen, s)
  | some lines => (.loaded, loadWords (imageWords lines) s)

end Sys2Proof.Machine
end

