-- ==== Sys2Proof/Machine/RunControl.lean ====
section
/-! DEFINITION. The run transaction (spec/70_reset_and_hazards.md R221, R225, R226, R232) and cancellation
(spec/60_exceptions.md R202, R204, R205): the run controller around `step`. When the host cancels is a free input
(spec/93_implementation_defined.md I11). -/

namespace Sys2Proof.Machine

/-- `cont`, the boolean a step returns, read off the state after it: "stop" exactly when the run state is HALTED, by the
halt signal of this step or because the step was requested in HALTED (R100, R202; log entry 9). -/
def contAfter (t : State) : Bool :=
  match t.run with
  | .running => true
  | .halted => false

/-- One step with the boolean it returns (R100, R202). -/
def stepCont (s : State) : Host.Outcome (State × Bool) Fault Refusal :=
  match step s with
  | .next t => .next (t, contAfter t)
  | .fault f => .fault f
  | .refused r => .refused r

/-- The host command `cancel()` (R204, R231). -/
def requestCancel (s : State) : State := { s with cancelReq := true }

/-- Run start (R225): a snapshot of the whole memory, and a fresh CPU state. -/
def startRun (s : State) : State :=
  { freshCpu s with snapshot := some { code := s.code, data := s.data } }

/-- The memory as the snapshot has it (R226). With no snapshot, no run is active and nothing changes (log entry 11). -/
def restoreMemory (s : State) : State :=
  match s.snapshot with
  | none => s
  | some n => { s with code := n.code, data := n.data, snapshot := none }

/-- Run end (R226): the memory is restored, then a fresh CPU state is made (R221). -/
def endRun (s : State) : State := freshCpu (restoreMemory s)

/-- Why a run ended (R232). -/
inductive StopReason where
  | halt
  | cancel
deriving DecidableEq, Repr

/-- The result of a run (R232). -/
structure RunResult where
  reason : StopReason
  reg : Word
deriving DecidableEq, Repr

/-- A run in progress, or its result and the state after it. -/
inductive RunStatus where
  | active (s : State)
  | ended (r : RunResult) (s : State)
deriving DecidableEq, Repr

/-- One turn of the run controller's loop (R225): stop if a cancellation is pending, else one step, and stop if it
returned "stop". -/
def controlTick (s : State) : Host.Outcome RunStatus Fault Refusal :=
  if s.cancelReq then .next (.ended { reason := .cancel, reg := s.reg } (endRun s))
  else
    match stepCont s with
    | .next (t, true) => .next (.active t)
    | .next (t, false) => .next (.ended { reason := .halt, reg := t.reg } (endRun t))
    | .fault f => .fault f
    | .refused r => .refused r

/-- The loop of R225 for a given host: the list says, for each point between two steps, whether the host requests
cancellation there (R204, I11; log entry 20). With the list at its end the run is still active. -/
def runLoop : List Bool → State → Host.Outcome RunStatus Fault Refusal
  | [], s => .next (.active s)
  | c :: cs, s =>
    match controlTick (if c then requestCancel s else s) with
    | .next (.active t) => runLoop cs t
    | .next (.ended r t) => .next (.ended r t)
    | .fault f => .fault f
    | .refused r => .refused r

/-- `run-until-halt-or-cancel()` (R225, R226, R231). -/
def runUntilHaltOrCancel (cancels : List Bool) (s : State) : Host.Outcome RunStatus Fault Refusal :=
  runLoop cancels (startRun s)

end Sys2Proof.Machine
end

