-- ==== Sys2Proof/Safety.lean ====
section
/-! DEFINITION. The invariant every step keeps, and what counts as a safe run. -/

namespace Sys2Proof.Machine

/-- Both spaces are in canonical form (log entry 16). -/
abbrev State.MemoryCanonical (s : State) : Prop := Memory.wf s.code = true ∧ Memory.wf s.data = true

/-- In HALTED the output slot holds the register (spec/60_exceptions.md R203). -/
abbrev State.HaltedShowsRegister (s : State) : Prop :=
  s.run = .halted → dataWord s Config.haltIndex = s.reg

/-- While a run is active its snapshot is in canonical form, and CODE is what it was when the run began
(spec/20_memory.md R52). -/
abbrev State.SnapshotAgrees (s : State) : Prop :=
  ∀ n ∈ s.snapshot, Memory.wf n.code = true ∧ Memory.wf n.data = true ∧ n.code = s.code

/-- The invariant of the machine. -/
structure State.Inv (s : State) : Prop where
  memory : s.MemoryCanonical
  halted : s.HaltedShowsRegister
  snapshot : s.SnapshotAgrees

/-- A safe run of `n` steps: it neither faults nor is refused, and ends in a state that meets the invariant. -/
def SafeRun (n : Nat) (s : State) : Prop :=
  ∃ t, Host.Core.run Sys2Proof.core n s = .next t ∧ State.Inv t

end Sys2Proof.Machine
end

