-- ==== Sys2Proof/Certificates/Slice0/Obligations.lean ====
section
/-! DEFINITION. The statements for the provers. Each docstring names the rule of spec/ it formalises. Where a clause rests on
a decision of spec/92_eei_decisions.md (`D<n>`, "the spec's own choice"), the docstring names the decision and the log entry.

Vocabulary first: what an instruction of each shape does, frame included, said once. -/

open Sys2Proof Sys2Proof.Machine

namespace Sys2Proof.Statements

/-- No word of CODE differs. -/
def SameCode (s t : State) : Prop := ∀ j, codeWord t j = codeWord s j

/-- No word of DATA differs. -/
def SameData (s t : State) : Prop := ∀ j, dataWord t j = dataWord s j

/-- The cancellation request and the run controller's snapshot (a field of the state by log entry 10) do not differ. -/
def SameHostState (s t : State) : Prop := t.cancelReq = s.cancelReq ∧ t.snapshot = s.snapshot

/-- `i` completes, writes `v` to the register, advances the pc, and changes nothing else. -/
def WritesRegister (i : Instr) (s : State) (v : Word) : Prop :=
  ∃ t, exec i s = .next t ∧ t.reg = v ∧ t.pc = s.pc + 1#4 ∧ t.run = s.run ∧
    SameCode s t ∧ SameData s t ∧ SameHostState s t

/-- `i` completes, writes `v` to the DATA slot `slot`, advances the pc, halts if `halts`, and changes nothing else. -/
def StoresWord (i : Instr) (s : State) (slot : Index) (v : Word) (halts : Bool) : Prop :=
  ∃ t, exec i s = .next t ∧ dataWord t slot = v ∧ (∀ j, j ≠ slot → dataWord t j = dataWord s j) ∧
    t.pc = s.pc + 1#4 ∧ t.run = (if halts then .halted else s.run) ∧ t.reg = s.reg ∧
    SameCode s t ∧ SameHostState s t

/-- `i` completes, sets the pc to `target`, and changes nothing else. -/
def SetsPc (i : Instr) (s : State) (target : Index) : Prop :=
  ∃ t, exec i s = .next t ∧ t.pc = target ∧ t.reg = s.reg ∧ t.run = s.run ∧
    SameCode s t ∧ SameData s t ∧ SameHostState s t

/-- The instruction sets the pc to its effective address in this state: JUMP and JUMP_REG always, a conditional when its
test of R183 holds. -/
def TransfersControl (i : Instr) (s : State) : Prop :=
  match i with
  | .jump _ => True
  | .jumpReg => True
  | .ifMax _ => s.reg.toNat = 255
  | .ifNotMax _ => s.reg.toNat ≠ 255
  | .ifMin _ => s.reg.toNat = 0
  | .ifNotMin _ => s.reg.toNat ≠ 0
  | _ => False

/-- The next step is the halt signal (R103): a write-shaped instruction whose effective address is DATA 15. -/
def HaltSignal (s : State) : Prop :=
  ((∃ a, decode (fetch s) = .write a) ∨ ∃ a, decode (fetch s) = .writePtr a) ∧
    resolve (decode (fetch s)) s = .data 15#4

/-- The DATA slot an instruction stores to, from its effective address (table of R29). -/
def storesTo (i : Instr) (s : State) : Option Index :=
  match i with
  | .write _ | .writePtr _ | .init =>
    match resolve i s with
    | .data p => some p
    | _ => none
  | .print _ => some Config.outIndex
  | _ => none

/-- The instructions that write the register (R23, table of R29). -/
def writesReg : Instr → Bool
  | .read _ | .add _ | .sub _ | .inc | .dec | .not | .shiftL | .shiftR => true
  | .and | .or | .xor | .readPtr _ | .readReg => true
  | _ => false

/-- The DATA slots an instruction reads (table of R29). -/
def readsFrom (i : Instr) (s : State) : List Index :=
  match i with
  | .read a | .add a | .sub a | .print a | .writePtr a => [a]
  | .readPtr a => [a, wordIndex (dataWord s a)]
  | .readReg => [wordIndex s.reg]
  | .and => [11#4]
  | .or => [12#4]
  | .xor => [14#4]
  | .init => [0#4]
  | _ => []

/-- Two words that differ at most in bits that R69 calls ignored: `a` for opcode 0xD, `a[3:1]` for 0xC, 0xE and 0xF. -/
def SameButIgnoredBits (w w' : Word) : Prop :=
  w = w' ∨ (w &&& 0xF0#8 = 0xD0#8 ∧ w' &&& 0xF0#8 = 0xD0#8) ∨
    (w &&& 0xF1#8 = w' &&& 0xF1#8 ∧ (w &&& 0xF0#8) ∈ [0xC0#8, 0xE0#8, 0xF0#8])

/-- `s` with the word `w` in the CODE slot the next step fetches. -/
def withCodeAtPc (s : State) (w : Word) : State := { s with code := Memory.write s.code s.pc w }

end Sys2Proof.Statements

open Sys2Proof.Statements

/-! ### Encoding and decode -/

/-- Decode inverts the encoder on every well-formed instruction, with every operand (spec/30_encoding.md sections 3 and 6;
the numbers are the spec's decisions D5 and D6, log entry 1). -/
def Obligations.DecodeInvertsEncode : Prop :=
  ∀ i : Instr, i.WellFormed → decode (encode i) = i

/-- Decode is total: every word gives an instruction that is well formed, and the instruction's canonical word decodes to
the same instruction (spec/30_encoding.md sections 3 and 6). -/
def Obligations.EveryWordDecodesToAWellFormedInstruction : Prop :=
  ∀ w : Word, (decode w).WellFormed ∧ decode (encode (decode w)) = decode w

/-- For every word, spec/opcode_table.json has exactly one matching row at its lowest matching priority, and decode gives
that row's instruction (spec/30_encoding.md section 3, R66; the numbers are the spec's decisions D5 and D6, log entry 1). -/
def Obligations.DecodeAgreesWithTheOpcodeTable : Prop :=
  ∀ w : Word, decodeByTable w = [decode w]

/-- Words written out from the spec's vectors decode to their instructions: all are V-D1 to V-D24 (spec/95_test_vectors.md
section 2) but 0x31, SUB 1, which is V-A6 (section 3). The words rest on the spec's decisions D5 and D6 (log entry 1). A
sanity statement. -/
def Obligations.WrittenOutWordsDecode : Prop :=
  decode 0x00#8 = .read 0#4 ∧ decode 0x0A#8 = .read 10#4 ∧ decode 0x0B#8 = .and ∧ decode 0x0C#8 = .or ∧
  decode 0x0D#8 = .init ∧ decode 0x0E#8 = .xor ∧ decode 0x0F#8 = .read 15#4 ∧ decode 0x1B#8 = .and ∧
  decode 0x1E#8 = .xor ∧ decode 0x1F#8 = .write 15#4 ∧ decode 0x2B#8 = .add 11#4 ∧ decode 0x31#8 = .sub 1#4 ∧
  decode 0x4F#8 = .jump 15#4 ∧ decode 0x92#8 = .readPtr 2#4 ∧ decode 0xA2#8 = .writePtr 2#4 ∧
  decode 0xC0#8 = .jumpReg ∧ decode 0xCE#8 = .jumpReg ∧ decode 0xC1#8 = .readReg ∧ decode 0xCF#8 = .readReg ∧
  decode 0xD7#8 = .not ∧ decode 0xE0#8 = .shiftL ∧ decode 0xE9#8 = .shiftR ∧ decode 0xF0#8 = .inc ∧
  decode 0xFF#8 = .dec ∧ decode 0xBF#8 = .print 15#4

/-- The bound-address reinterpretation (spec/30_encoding.md section 3, R67; the spec's decision D6, log entry 1): the words
with opcode 0x0 or 0x1 and operand 11, 12, 13 or 14 are AND, OR, INIT and XOR, and no word is READ or WRITE of those
indices. -/
def Obligations.BoundOperandsSelectTheLogicOperations : Prop :=
  (∀ op ∈ [0x0#4, 0x1#4],
    decode (wordOf op 11#4) = .and ∧ decode (wordOf op 12#4) = .or ∧
    decode (wordOf op 13#4) = .init ∧ decode (wordOf op 14#4) = .xor) ∧
  ∀ w : Word, ∀ b ∈ [11#4, 12#4, 13#4, 14#4], decode w ≠ .read b ∧ decode w ≠ .write b

/-- Two words that differ only in ignored bits run alike: the same pc, register, run state and DATA after the step
(spec/30_encoding.md section 3, R69; the spec's decision D16, log entry 15). -/
def Obligations.IgnoredBitsHaveNoEffect : Prop :=
  ∀ (s : State) (w w' : Word), SameButIgnoredBits w w' →
    ∃ t u, step (withCodeAtPc s w) = .next t ∧ step (withCodeAtPc s w') = .next u ∧
      u.pc = t.pc ∧ u.reg = t.reg ∧ u.run = t.run ∧ u.data = t.data ∧ SameHostState t u

/-- Operand re-encoding keeps the opcode nibble and replaces the operand nibble (spec/30_encoding.md section 5, R77, which
the spec marks as derived). -/
def Obligations.WithOperandReplacesOnlyTheOperandNibble : Prop :=
  ∀ (w : Word) (i : Index), (withOperand w i).toNat = 16 * (w.toNat / 16) + i.toNat

/-- Assembling what the disassembler prints gives the canonical word of the same instruction, and a READ or WRITE of a
bound index is rejected (spec/30_encoding.md section 6, R78 and R79; the spec's decision D19, log entry 22). -/
def Obligations.AssemblingDisassemblyGivesTheCanonicalWord : Prop :=
  (∀ w : Word, assemble (disassemble w) = some (encode (decode w))) ∧
  (∀ b ∈ [11#4, 12#4, 13#4, 14#4],
    assemble (['R', 'E', 'A', 'D', ' '] ++ printOperand b) = none ∧
    assemble (['W', 'R', 'I', 'T', 'E', ' '] ++ printOperand b) = none) ∧
  assemble ['H', 'A', 'L', 'T'] = some 0x1F#8

/-! ### The step -/

/-- In RUNNING a step executes exactly the instruction decoded from the word at `CODE[pc]`; in HALTED it changes nothing
(spec/40_data_transfer.md section 1, R100; that HALTED does nothing is the spec's decision D10, log entry 7). -/
def Obligations.StepRunsTheDecodedInstruction : Prop :=
  ∀ s : State,
    (s.run = .running → step s = exec (decode (codeWord s s.pc)) s) ∧
    (s.run = .halted → step s = .next s)

/-- No step of any state stops with a fault or a refusal (R200). That the model has no fault, and that it refuses accesses the
block never makes, are log entries 23 and 12. -/
def Obligations.EveryStepCompletes : Prop :=
  ∀ s : State, ∃ t, step s = .next t

/-- Every step keeps the invariant: both spaces and the snapshot in canonical form, the output slot equal to the register
in HALTED, and CODE equal to the snapshot's CODE while a run is active (spec/60_exceptions.md section 2,
spec/20_memory.md section 4). The canonical form is the model's (log entry 16), and so is the snapshot's place in the state
(log entry 10). -/
def Obligations.StepKeepsTheInvariant : Prop :=
  ∀ s t : State, State.Inv s → step s = .next t → State.Inv t

/-- From any state that meets the invariant, any number of steps is a safe run: none faults or is refused, and the
invariant holds at the end (spec/60_exceptions.md sections 1 and 2). The canonical form and the snapshot's place in the
state are the model's (log entries 16 and 10). -/
def Obligations.RunsFromTheInvariantAreSafe : Prop :=
  ∀ (n : Nat) (s : State), State.Inv s → SafeRun n s

/-- The state after reset meets the invariant (spec/70_reset_and_hazards.md section 1, R220 and R224). The canonical form of
its memory and the absent snapshot are the model's (log entries 16 and 10); RUNNING is the spec's decision D11 (log
entry 6). -/
def Obligations.ResetMeetsTheInvariant : Prop := State.Inv State.reset

/-- Starting a run from any state with its memory in canonical form gives a state that meets the invariant
(spec/70_reset_and_hazards.md section 2, R225; the fresh run state is section 1, the spec's decision D11, log entry 6). The
canonical form and the snapshot's place in the state are the model's (log entries 16 and 10). -/
def Obligations.StartingARunEstablishesTheInvariant : Prop :=
  ∀ s : State, State.MemoryCanonical s → State.Inv (startRun s)

/-- HALTED is terminal: any number of steps changes nothing, and each returns "stop" (spec/60_exceptions.md section 2,
R203; the spec's decision D10, log entry 7). -/
def Obligations.HaltedMachineStaysAsItIs : Prop :=
  ∀ (n : Nat) (s : State), s.run = .halted →
    Host.Core.run Sys2Proof.core n s = .next s ∧ stepCont s = .next (s, false)

/-- A step enters HALTED exactly by the halt signal: WRITE or WRITE_PTR with effective address DATA 15. The write is
performed, the pc advances and the register stays (spec/40_data_transfer.md section 1, R103; the index and the pc are the
spec's decisions D8 and D9, log entries 2 and 7). -/
def Obligations.OnlyTheHaltSignalHalts : Prop :=
  ∀ s : State, s.run = .running →
    ∃ t, step s = .next t ∧ (t.run = .halted ↔ HaltSignal s) ∧
      (HaltSignal s →
        dataWord t 15#4 = s.reg ∧ (∀ j, j ≠ 15#4 → dataWord t j = dataWord s j) ∧
        t.reg = s.reg ∧ t.pc = s.pc + 1#4)

/-- The boolean a step returns is "stop" exactly when the step executed the halt signal or was requested in HALTED
(spec/60_exceptions.md section 2, R202; the spec's decision D10, log entry 7). -/
def Obligations.StepReturnsStopExactlyOnHalt : Prop :=
  ∀ s : State, ∃ t cont, step s = .next t ∧ stepCont s = .next (t, cont) ∧
    (cont = false ↔ s.run = .halted ∨ (s.run = .running ∧ HaltSignal s))

/-- No instruction writes CODE or reads it as data: with any other CODE contents the same instruction does the same, and
leaves those contents as they are (spec/20_memory.md section 1, R42). -/
def Obligations.NoInstructionReadsOrWritesCode : Prop :=
  ∀ (i : Instr) (s : State) (m : Memory), ∃ t,
    exec i s = .next t ∧ t.code = s.code ∧
    exec i { s with code := m } = .next { t with code := m }

/-- No step reads or writes the cancellation request or the snapshot: with any other values of them the step does the same
and leaves them as they are, so a pending cancellation never cuts a step short (spec/10_state.md section 3, R27;
spec/60_exceptions.md section 2, R204; the spec's decision D22, log entry 8). The half about the snapshot is the model's
reading: it is a field of the state, and no instruction touches it (log entry 10; spec/70_reset_and_hazards.md section 2
gives it to the run controller). -/
def Obligations.StepsIgnoreCancellationAndSnapshot : Prop :=
  ∀ (s : State) (c : Bool) (n : Option Snapshot), ∃ t,
    step s = .next t ∧ SameHostState s t ∧
    step { s with cancelReq := c, snapshot := n } = .next { t with cancelReq := c, snapshot := n }

/-- Every instruction writes only what its row of the access table says: the register only if it is listed as written, and
of DATA only the slot its effective address (for PRINT, the output slot) names (spec/10_state.md section 5, R29, which the
spec marks as derived). -/
def Obligations.EveryInstructionWritesOnlyItsRowOfTheAccessTable : Prop :=
  ∀ (i : Instr) (s : State), ∃ t, exec i s = .next t ∧
    (writesReg i = false → t.reg = s.reg) ∧
    (∀ j, storesTo i s ≠ some j → dataWord t j = dataWord s j) ∧
    SameCode s t ∧ SameHostState s t

/-- Every instruction depends only on the DATA slots its row of the access table says it reads: with DATA contents that
agree on those slots it gives the same pc, register and run state, stores to the same slot and stores the same word
(spec/10_state.md section 5, R29, which the spec marks as derived). -/
def Obligations.EveryInstructionReadsOnlyItsRowOfTheAccessTable : Prop :=
  ∀ (i : Instr) (s : State) (m : Memory), (∀ j ∈ readsFrom i s, Memory.read m j = dataWord s j) →
    ∃ t u, exec i s = .next t ∧ exec i { s with data := m } = .next u ∧
      u.pc = t.pc ∧ u.reg = t.reg ∧ u.run = t.run ∧
      storesTo i { s with data := m } = storesTo i s ∧
      ∀ j, storesTo i s = some j → dataWord u j = dataWord t j

/-- The instructions whose effective address is NONE are NOT, SHIFT_L, SHIFT_R, INC and DEC; they complete, change no word
of memory, and do the same whatever DATA holds (spec/60_exceptions.md section 4, R213, which the spec marks as derived). -/
def Obligations.NoneIsNeverDereferenced : Prop :=
  ∀ (i : Instr) (s : State),
    (resolve i s = .none ↔ i ∈ [Instr.not, .shiftL, .shiftR, .inc, .dec]) ∧
    (resolve i s = .none → ∀ m : Memory, ∃ t, exec i s = .next t ∧ t.data = s.data ∧ t.code = s.code ∧
      exec i { s with data := m } = .next { t with data := m })

/-- The program counter after an instruction (spec/10_state.md section 1, R22; spec/42_control.md section 1, R180): the
effective CODE address if the instruction transfers control, else the next index, which after 15 is 0. Which instructions
always transfer control and which never do are the categories of spec/30_encoding.md section 4, where READ_REG, INIT and
the two shifts are placed by the spec's own reading and decision D13 (log entry 4). The tests of the conditionals are
spec/42_control.md section 2, R183, by the spec's decisions D4 and D28 (log entry 2). -/
def Obligations.ProgramCounterAdvancesOrTakesTheTarget : Prop :=
  ∀ (i : Instr) (s : State), ∃ t, exec i s = .next t ∧
    (TransfersControl i s → resolve i s = .code t.pc) ∧
    (¬ TransfersControl i s → t.pc.toNat = (s.pc.toNat + 1) % 16) ∧
    (category i = .transfer → TransfersControl i s) ∧
    (category i = .sequential → ¬ TransfersControl i s)

/-! ### Data transfer -/

/-- READ (R101), whole: words, addresses, result and frame. The opcode number, the excluded operands, the space and that READ 15
is a plain read are the spec's decisions D5, D6, D26 (log entry 1) and D27 (log entry 5). -/
def Obligations.ReadLoadsTheDataWord : Prop :=
  (∀ (w : Word) (a : Index), decode w = .read a ↔ w.toNat = a.toNat ∧ (a.toNat ≤ 10 ∨ a.toNat = 15)) ∧
  ∀ (a : Index) (s : State), a.toNat ≤ 10 ∨ a.toNat = 15 →
    firstOrder (.read a) = [.data a] ∧ resolve (.read a) s = .data a ∧
    WritesRegister (.read a) s (dataWord s a)

/-- WRITE (R102), whole: words, addresses, the store, the halt at 15, and frame. The numbers, the space and the pc after a halt
are the spec's decisions D5, D6, D26 (log entry 1), D8 (log entry 2) and D9 (log entry 7). -/
def Obligations.WriteStoresTheRegister : Prop :=
  (∀ (w : Word) (a : Index), decode w = .write a ↔ w.toNat = 0x10 + a.toNat ∧ (a.toNat ≤ 10 ∨ a.toNat = 15)) ∧
  ∀ (a : Index) (s : State), a.toNat ≤ 10 ∨ a.toNat = 15 →
    firstOrder (.write a) = [.data a] ∧ resolve (.write a) s = .data a ∧
    StoresWord (.write a) s a s.reg (a == 15#4)

/-- READ_PTR (spec/40_data_transfer.md section 1, R104): the register takes the word of the slot that the pointer's low four
bits name. The opcode number and the space are the spec's decisions D5 and D26 (log entry 1), the use of the low bits and
the plain access to bound slots D12 and D27 (log entry 5). -/
def Obligations.ReadPtrLoadsThroughThePointer : Prop :=
  ∀ (a : Index) (s : State),
    (∀ w : Word, decode w = .readPtr a ↔ w.toNat = 0x90 + a.toNat) ∧ firstOrder (.readPtr a) = [.data a] ∧
    ∃ p : Index, p.toNat = (dataWord s a).toNat % 16 ∧ resolve (.readPtr a) s = .data p ∧
      WritesRegister (.readPtr a) s (dataWord s p)

/-- WRITE_PTR (spec/40_data_transfer.md section 1, R105): the register goes to the slot that the pointer's low four bits
name, read before the write; slot 15 halts. The opcode number and the space are the spec's decisions D5 and D26 (log entry
1), the halt index D8 (log entry 2), the low bits and the plain access to bound slots D12 and D27 (log entry 5), the pc
after a halt D9 (log entry 7). -/
def Obligations.WritePtrStoresThroughThePointer : Prop :=
  ∀ (a : Index) (s : State),
    (∀ w : Word, decode w = .writePtr a ↔ w.toNat = 0xA0 + a.toNat) ∧ firstOrder (.writePtr a) = [.data a] ∧
    ∃ p : Index, p.toNat = (dataWord s a).toNat % 16 ∧ resolve (.writePtr a) s = .data p ∧
      StoresWord (.writePtr a) s p s.reg (p == 15#4)

/-- READ_REG (R106), whole: the register takes the word of the slot that its own low four bits named. The opcode number, the
space and the first-order address NONE are the spec's decisions D5 (log entry 1), D12 (log entry 5) and D15 (log
entry 4). -/
def Obligations.ReadRegLoadsTheSlotTheRegisterNames : Prop :=
  (∀ w : Word, decode w = .readReg ↔ w &&& 0xF1#8 = 0xC1#8) ∧ firstOrder .readReg = [.none] ∧
  ∀ s : State, ∃ p : Index, p.toNat = s.reg.toNat % 16 ∧ resolve .readReg s = .data p ∧
    WritesRegister .readReg s (dataWord s p)

/-- PRINT (R107), whole: the output slot 15 takes the addressed word, and the machine does not halt. The opcode number, the
space and the slot are the spec's decisions D5, D26 (log entry 1) and D8 (log entry 2). -/
def Obligations.PrintCopiesToTheOutputSlot : Prop :=
  ∀ (a : Index) (s : State),
    (∀ w : Word, decode w = .print a ↔ w.toNat = 0xB0 + a.toNat) ∧
    firstOrder (.print a) = [.data a] ∧ resolve (.print a) s = .data a ∧ Config.outIndex = 15#4 ∧
    StoresWord (.print a) s Config.outIndex (dataWord s a) false

/-! ### Arithmetic and logic -/

/-- ADD (R143), whole: the exact sum clamped at 255. The opcode number, the space and the bound 255 are the spec's decisions D5,
D26 (log entry 1) and D29 (log entry 2). -/
def Obligations.AddClampsAtTheLargestWord : Prop :=
  ∀ (a : Index) (s : State),
    (∀ w : Word, decode w = .add a ↔ w.toNat = 0x20 + a.toNat) ∧
    firstOrder (.add a) = [.data a] ∧ resolve (.add a) s = .data a ∧
    ∃ v : Word, v.toNat = min (s.reg.toNat + (dataWord s a).toNat) 255 ∧ WritesRegister (.add a) s v

/-- SUB (R144), whole: the exact difference clamped at 0. The opcode number, the space and the bound 0 are the spec's decisions
D5, D26 (log entry 1) and D29 (log entry 2). -/
def Obligations.SubClampsAtZero : Prop :=
  ∀ (a : Index) (s : State),
    (∀ w : Word, decode w = .sub a ↔ w.toNat = 0x30 + a.toNat) ∧
    firstOrder (.sub a) = [.data a] ∧ resolve (.sub a) s = .data a ∧
    ∃ v : Word, (v.toNat : Int) = max ((s.reg.toNat : Int) - ((dataWord s a).toNat : Int)) 0 ∧
      WritesRegister (.sub a) s v

/-- INC (spec/41_alu.md section 2, R145): wraps from 255 to 0. That INC is register-only, with both addresses NONE, is the
spec's decision D15 (log entry 4); the opcode number and MAX_VALUE = 255 are its decisions D5 and D4 (log entries 1
and 2). -/
def Obligations.IncWrapsToZero : Prop :=
  (∀ w : Word, decode w = .inc ↔ w &&& 0xF1#8 = 0xF0#8) ∧ firstOrder .inc = [.none] ∧
  ∀ s : State, resolve .inc s = .none ∧
    ∃ v : Word, v.toNat = (if s.reg.toNat = 255 then 0 else s.reg.toNat + 1) ∧ WritesRegister .inc s v

/-- DEC (spec/41_alu.md section 2, R146): wraps from 0 to 255. That DEC is register-only, with both addresses NONE, is the
spec's decision D15 (log entry 4); the opcode number and MAX_VALUE = 255 are its decisions D5 and D4 (log entries 1
and 2). -/
def Obligations.DecWrapsToTheLargestWord : Prop :=
  (∀ w : Word, decode w = .dec ↔ w &&& 0xF1#8 = 0xF1#8) ∧ firstOrder .dec = [.none] ∧
  ∀ s : State, resolve .dec s = .none ∧
    ∃ v : Word, v.toNat = (if s.reg.toNat = 0 then 255 else s.reg.toNat - 1) ∧ WritesRegister .dec s v

/-- NOT (spec/41_alu.md section 3, R148): every bit of the register complemented. That NOT means this is the spec's decision
D14 (log entry 4). That it is
register-only is decision D15 (log entry 4), the opcode number D5 (log entry 1). -/
def Obligations.NotComplementsEveryBit : Prop :=
  (∀ w : Word, decode w = .not ↔ w &&& 0xF0#8 = 0xD0#8) ∧ firstOrder .not = [.none] ∧
  ∀ s : State, resolve .not s = .none ∧
    ∃ v : Word, v.toNat = 255 - s.reg.toNat ∧ (∀ k, k < 8 → v.getLsbD k = !s.reg.getLsbD k) ∧
      WritesRegister .not s v

/-- SHIFT_L (spec/41_alu.md section 3, R149): one bit to the left, filling with 0. Direction, width and fill are the spec's
decision D13 (log entry 4). That it is
register-only is decision D15 (log entry 4), the opcode number D5 (log entry 1). -/
def Obligations.ShiftLeftDoublesAndDropsTheTopBit : Prop :=
  (∀ w : Word, decode w = .shiftL ↔ w &&& 0xF1#8 = 0xE0#8) ∧ firstOrder .shiftL = [.none] ∧
  ∀ s : State, resolve .shiftL s = .none ∧
    ∃ v : Word, v.toNat = 2 * s.reg.toNat % 256 ∧ v.getLsbD 0 = false ∧
      (∀ k, k < 7 → v.getLsbD (k + 1) = s.reg.getLsbD k) ∧ WritesRegister .shiftL s v

/-- SHIFT_R (spec/41_alu.md section 3, R150): one bit to the right, filling with 0. Direction, width and fill are the spec's
decision D13 (log entry 4). That it is
register-only is decision D15 (log entry 4), the opcode number D5 (log entry 1). -/
def Obligations.ShiftRightHalvesAndDropsTheLowBit : Prop :=
  (∀ w : Word, decode w = .shiftR ↔ w &&& 0xF1#8 = 0xE1#8) ∧ firstOrder .shiftR = [.none] ∧
  ∀ s : State, resolve .shiftR s = .none ∧
    ∃ v : Word, v.toNat = s.reg.toNat / 2 ∧ v.getLsbD 7 = false ∧
      (∀ k, k < 7 → v.getLsbD k = s.reg.getLsbD (k + 1)) ∧ WritesRegister .shiftR s v

/-- AND (spec/41_alu.md section 4, R151): with DATA 11, bit by bit. The bound index and the destination are the spec's
decisions D6 and D14 (log entries 1 and 4). -/
def Obligations.AndMasksWithTheBoundSlot : Prop :=
  (∀ w : Word, decode w = .and ↔ w = 0x0B#8 ∨ w = 0x1B#8) ∧ firstOrder .and = [.data 11#4] ∧
  ∀ s : State, resolve .and s = .data 11#4 ∧
    ∃ v : Word, (∀ k, k < 8 → v.getLsbD k = (s.reg.getLsbD k && (dataWord s 11#4).getLsbD k)) ∧
      WritesRegister .and s v

/-- OR (spec/41_alu.md section 4, R152): with DATA 12, bit by bit. The bound index and the destination are the spec's
decisions D6 and D14 (log entries 1 and 4). -/
def Obligations.OrJoinsTheBoundSlot : Prop :=
  (∀ w : Word, decode w = .or ↔ w = 0x0C#8 ∨ w = 0x1C#8) ∧ firstOrder .or = [.data 12#4] ∧
  ∀ s : State, resolve .or s = .data 12#4 ∧
    ∃ v : Word, (∀ k, k < 8 → v.getLsbD k = (s.reg.getLsbD k || (dataWord s 12#4).getLsbD k)) ∧
      WritesRegister .or s v

/-- XOR (spec/41_alu.md section 4, R153): with DATA 14, bit by bit. The bound index and the destination are the spec's
decisions D6 and D14 (log entries 1 and 4). -/
def Obligations.XorTogglesByTheBoundSlot : Prop :=
  (∀ w : Word, decode w = .xor ↔ w = 0x0E#8 ∨ w = 0x1E#8) ∧ firstOrder .xor = [.data 14#4] ∧
  ∀ s : State, resolve .xor s = .data 14#4 ∧
    ∃ v : Word, (∀ k, k < 8 → v.getLsbD k = Bool.xor (s.reg.getLsbD k) ((dataWord s 14#4).getLsbD k)) ∧
      WritesRegister .xor s v

/-- INIT (spec/41_alu.md section 4, R154): DATA 13 takes the word of DATA 0, and nothing halts. The data movement, its
direction and INIT_SRC = 0 are the spec's own choice, decision D7 (log entry 3). -/
def Obligations.InitCopiesTheBootstrapSlot : Prop :=
  (∀ w : Word, decode w = .init ↔ w = 0x0D#8 ∨ w = 0x1D#8) ∧ firstOrder .init = [.data 13#4, .data 0#4] ∧
  ∀ s : State, resolve .init s = .data 13#4 ∧ StoresWord .init s 13#4 (dataWord s 0#4) false

/-- ADD and SUB clamp where INC and DEC wrap, at the two ends of the range (spec/41_alu.md section 2; R147 names the point of
ADD and INC; R143 to R146 give the general results, each a statement of its own). MAX_VALUE = 255 and the clamp bounds are
the spec's decisions D4 and D29 (log entry 2). -/
def Obligations.AddAndSubClampWhereIncAndDecWrap : Prop :=
  (∀ (a : Index) (s : State), s.reg = 0xFF#8 → dataWord s a = 0x01#8 →
    ∃ t u, exec (.add a) s = .next t ∧ t.reg = 0xFF#8 ∧ exec .inc s = .next u ∧ u.reg = 0x00#8) ∧
  (∀ (a : Index) (s : State), s.reg = 0x00#8 → dataWord s a = 0x01#8 →
    ∃ t u, exec (.sub a) s = .next t ∧ t.reg = 0x00#8 ∧ exec .dec s = .next u ∧ u.reg = 0xFF#8)

/-! ### Control -/

/-- JUMP (R181), whole. The opcode number and the space are the spec's decisions D5 and D26 (log entry 1). -/
def Obligations.JumpGoesToItsOperand : Prop :=
  ∀ (a : Index) (s : State),
    (∀ w : Word, decode w = .jump a ↔ w.toNat = 0x40 + a.toNat) ∧
    firstOrder (.jump a) = [.code a] ∧ resolve (.jump a) s = .code a ∧ SetsPc (.jump a) s a

/-- JUMP_REG (R182), whole: the target is the register's low four bits. The opcode number, the space and the first-order
address NONE are the spec's decisions D5 (log entry 1), D12 (log entry 5) and D15 (log entry 4). -/
def Obligations.JumpRegGoesWhereTheRegisterSays : Prop :=
  (∀ w : Word, decode w = .jumpReg ↔ w &&& 0xF1#8 = 0xC0#8) ∧ firstOrder .jumpReg = [.none] ∧
  ∀ s : State, ∃ p : Index, p.toNat = s.reg.toNat % 16 ∧ resolve .jumpReg s = .code p ∧ SetsPc .jumpReg s p

/-- IF_MAX (R184), whole. The opcode number and the space are the spec's decisions D5 and D26 (log entry 1), MAX_VALUE = 255 and the
test by equality are D4 and D28 (log entry 2). -/
def Obligations.IfMaxBranchesAtTheMaximum : Prop :=
  ∀ (a : Index) (s : State),
    (∀ w : Word, decode w = .ifMax a ↔ w.toNat = 0x50 + a.toNat) ∧
    firstOrder (.ifMax a) = [.code a] ∧ resolve (.ifMax a) s = .code a ∧
    SetsPc (.ifMax a) s (if s.reg.toNat = 255 then a else s.pc + 1#4)

/-- IF_NOT_MAX (R185), whole. The opcode number and the space are the spec's decisions D5 and D26 (log entry 1), MAX_VALUE = 255 and
the test by equality are D4 and D28 (log entry 2). -/
def Obligations.IfNotMaxBranchesBelowTheMaximum : Prop :=
  ∀ (a : Index) (s : State),
    (∀ w : Word, decode w = .ifNotMax a ↔ w.toNat = 0x60 + a.toNat) ∧
    firstOrder (.ifNotMax a) = [.code a] ∧ resolve (.ifNotMax a) s = .code a ∧
    SetsPc (.ifNotMax a) s (if s.reg.toNat ≠ 255 then a else s.pc + 1#4)

/-- IF_MIN (R186), whole. The opcode number and the space are the spec's decisions D5 and D26 (log entry 1), the test by equality is D28
(log entry 2). -/
def Obligations.IfMinBranchesAtZero : Prop :=
  ∀ (a : Index) (s : State),
    (∀ w : Word, decode w = .ifMin a ↔ w.toNat = 0x70 + a.toNat) ∧
    firstOrder (.ifMin a) = [.code a] ∧ resolve (.ifMin a) s = .code a ∧
    SetsPc (.ifMin a) s (if s.reg.toNat = 0 then a else s.pc + 1#4)

/-- IF_NOT_MIN (R187), whole. The opcode number and the space are the spec's decisions D5 and D26 (log entry 1), the test by equality is
D28 (log entry 2). -/
def Obligations.IfNotMinBranchesAboveZero : Prop :=
  ∀ (a : Index) (s : State),
    (∀ w : Word, decode w = .ifNotMin a ↔ w.toNat = 0x80 + a.toNat) ∧
    firstOrder (.ifNotMin a) = [.code a] ∧ resolve (.ifNotMin a) s = .code a ∧
    SetsPc (.ifNotMin a) s (if s.reg.toNat ≠ 0 then a else s.pc + 1#4)

/-- Of IF_MAX and IF_NOT_MAX exactly one goes to the target and the other to the next index, and so for IF_MIN and
IF_NOT_MIN (spec/42_control.md section 2, R188, which the spec marks as derived). -/
def Obligations.ConditionalPairsAreComplementary : Prop :=
  ∀ (a : Index) (s : State), ∃ t u v w,
    exec (.ifMax a) s = .next t ∧ exec (.ifNotMax a) s = .next u ∧
    exec (.ifMin a) s = .next v ∧ exec (.ifNotMin a) s = .next w ∧
    ((t.pc = a ∧ u.pc = s.pc + 1#4) ∨ (t.pc = s.pc + 1#4 ∧ u.pc = a)) ∧
    ((v.pc = a ∧ w.pc = s.pc + 1#4) ∨ (v.pc = s.pc + 1#4 ∧ w.pc = a)) ∧
    (TransfersControl (.ifMax a) s ↔ ¬ TransfersControl (.ifNotMax a) s) ∧
    (TransfersControl (.ifMin a) s ↔ ¬ TransfersControl (.ifNotMin a) s)

/-! ### Memory, reset, image load -/

/-- The memory primitives (spec/20_memory.md section 5, R56): a read gives the word of the slot, and a write replaces it and
leaves every other slot. The last clause says that no instruction is refused; it means that none issues a CODE write or an
access at NONE because the model refuses such accesses, which is the model's own (log entry 12; R56 only allows it). -/
def Obligations.MemoryPrimitivesReplaceOneSlot : Prop :=
  (∀ (m : Memory) (i : Index) (v : Word),
    Memory.read (Memory.write m i v) i = v ∧ ∀ j, j ≠ i → Memory.read (Memory.write m i v) j = Memory.read m j) ∧
  ∀ (i : Instr) (s : State) (r : Refusal), exec i s ≠ .refused r

/-- Two memories in canonical form that read the same at every slot are the same data (the model's representation, log
entry 16; spec/10_state.md section 4). -/
def Obligations.CanonicalMemoriesThatReadAlikeAreEqual : Prop :=
  ∀ m n : Memory, Memory.wf m = true → Memory.wf n = true → (∀ i, Memory.read m i = Memory.read n i) → m = n

/-- CPU reset does not change memory (spec/70_reset_and_hazards.md section 1, R223); it sets pc, register, run state and
cancellation request to that section's values, which are the spec's decisions D11 and D22 (R220, log entry 6). -/
def Obligations.CpuResetKeepsMemory : Prop :=
  ∀ s : State,
    (freshCpu s).code = s.code ∧ (freshCpu s).data = s.data ∧
    (freshCpu s).pc = 0#4 ∧ (freshCpu s).reg = 0x00#8 ∧ (freshCpu s).run = .running ∧ (freshCpu s).cancelReq = false

/-- A new memory is all 0x00 (spec/70_reset_and_hazards.md section 1, R224), and an image load overwrites exactly the slots it
fills; which word fills which slot is R227 (section 2). The first character of a line as bit 7 is the spec's decision D3 (log
entry 1); the comment marker and the 1-character are left open by D25 and are free constants here (log entry 17); an image as
a list of lines is log entry 18. -/
def Obligations.NewMemoryIsZeroUntilAnImageIsLoaded : Prop :=
  (∀ i, codeWord State.reset i = 0x00#8 ∧ dataWord State.reset i = 0x00#8) ∧
  ∀ (lines : List (List Char)) (i : Index),
    codeWord (loadImage (some lines) State.reset).2 i = (imageWords lines).getD i.toNat 0x00#8 ∧
    dataWord (loadImage (some lines) State.reset).2 i = (imageWords lines).getD (16 + i.toNat) 0x00#8

/-- Image load (spec/70_reset_and_hazards.md section 2, R227 to R229): which lines are skipped, which bit each character
gives, CODE first and then DATA, slots not reached as before, and an image that cannot be opened changes nothing. The bit
order is the spec's decision D3 (log entry 1); the comment marker and the 1-character are free constants (log entry 17); an
image as a list of lines is log entry 18. The clause that the loaded memory is in canonical form is the model's
representation (log entry 16), no rule of the spec. -/
def Obligations.ImageLoadFillsCodeThenData : Prop :=
  imageWords [] = [] ∧
  (∀ (l : List Char) (ls : List (List Char)), imageWords (l :: ls) =
    if l = [] ∨ Config.commentMarker <+: l then imageWords ls else lineWord l :: imageWords ls) ∧
  (∀ (l : List Char) (k : Nat), k < 8 → ((lineWord l).getLsbD (7 - k) = true ↔ (l)[k]? = some Config.oneChar)) ∧
  (∀ (lines : List (List Char)) (s : State), ∃ t, loadImage (some lines) s = (.loaded, t) ∧
    (∀ i : Index, codeWord t i = (imageWords lines).getD i.toNat (codeWord s i)) ∧
    (∀ i : Index, dataWord t i = (imageWords lines).getD (16 + i.toNat) (dataWord s i)) ∧
    State.MemoryCanonical t ∧ t.pc = s.pc ∧ t.reg = s.reg ∧ t.run = s.run ∧ SameHostState s t) ∧
  ∀ s : State, loadImage none s = (.cannotOpen, s)

/-! ### The run transaction and the host -/

/-- After a run, halted or cancelled, the memory equals its pre-run content exactly and the CPU state is fresh
(spec/70_reset_and_hazards.md section 2, R226). The fresh values are the spec's decisions D11 and D22 (log entry 6), that
the run controller restores is its decision D24, and that no snapshot remains is the model's (log entry 10). -/
def Obligations.RunRestoresTheMemory : Prop :=
  ∀ (cancels : List Bool) (s t : State) (r : RunResult),
    runUntilHaltOrCancel cancels s = .next (.ended r t) →
      t.code = s.code ∧ t.data = s.data ∧
      t.pc = 0#4 ∧ t.reg = 0x00#8 ∧ t.run = .running ∧ t.cancelReq = false ∧ t.snapshot = none

/-- Whatever the program and whenever the host cancels, the run controller neither faults nor is refused: the run is still
active or has ended (spec/60_exceptions.md section 1 and spec/70_reset_and_hazards.md section 2). -/
def Obligations.RunControllerAlwaysAnswers : Prop :=
  ∀ (cancels : List Bool) (s : State), ∃ st, runUntilHaltOrCancel cancels s = .next st

/-- A run can be cancelled after any whole number of steps that did not halt, zero included: it then ends with the result
(CANCEL, reg) of exactly that many steps (spec/60_exceptions.md section 2, R204, spec/70_reset_and_hazards.md section 4,
R232; the spec's decision D22, log entry 8). The host's cancellations as a list are log entry 20. -/
def Obligations.CancellationEndsTheRunAfterAnyNumberOfSteps : Prop :=
  ∀ (n : Nat) (s t : State) (rest : List Bool),
    Host.Core.run Sys2Proof.core n (startRun s) = .next t → t.run = .running →
      runUntilHaltOrCancel (List.replicate n false ++ true :: rest) s
        = .next (.ended { reason := .cancel, reg := t.reg } (endRun t))

/-- Without cancellation a run ends at its first halting step, with the result (HALT, reg), and at that point the output
slot holds the register (spec/70_reset_and_hazards.md section 4, R232; the spec's decisions D9 and D22, log entries 7
and 8). -/
def Obligations.RunEndsAtTheFirstHalt : Prop :=
  ∀ (n : Nat) (s t u : State) (rest : List Bool),
    Host.Core.run Sys2Proof.core n (startRun s) = .next t → t.run = .running →
    step t = .next u → u.run = .halted →
      runUntilHaltOrCancel (List.replicate (n + 1) false ++ rest) s
        = .next (.ended { reason := .halt, reg := u.reg } (endRun u)) ∧
      dataWord u 15#4 = u.reg

/-- The binding query (spec/30_encoding.md section 5, R76): some CODE slot at or below a non-empty one holds a bound
operation whose operand nibble is `i`. The scan limit is the spec's decision D30 (log entry 24). -/
def Obligations.BindingQueryFindsEffectiveBoundOperations : Prop :=
  ∀ (s : State) (i : Index), boundAt s i = true ↔
    ∃ k n : Index, k.toNat ≤ n.toNat ∧ codeWord s n ≠ 0x00#8 ∧
      decode (codeWord s k) ∈ [Instr.and, .or, .init, .xor] ∧ (codeWord s k).toNat % 16 = i.toNat

/-- The parameter values the model takes are a combination that R6 admits (spec/00_scope.md section 4; the values are the
spec's decisions D1, D2, D4, D6, D7 and D8, log entry 2). -/
def Obligations.ParametersAreAdmitted : Prop := Config.parameters.admitted = true
end

