-- ==== Sys2Proof/Laws/Arith.lean ====
section
/-! SUPPORT. The value of each arithmetic operation as a number (spec/10_state.md R22; spec/41_alu.md R141, R142, R145, R146,
R149, R150). -/

namespace Sys2Proof.Machine

theorem advance_toNat (pc : Index) : (advance pc).toNat = (pc.toNat + 1) % 16 := by
  simp [advance, BitVec.toNat_add]

theorem satAdd_toNat (x y : Word) : (satAdd x y).toNat = min (x.toNat + y.toNat) 255 := by
  simp only [satAdd, Config.wordSize, BitVec.toNat_ofNat]
  omega

theorem satSub_toNat (x y : Word) : ((satSub x y).toNat : Int) = max ((x.toNat : Int) - (y.toNat : Int)) 0 := by
  have := x.isLt
  simp only [satSub, BitVec.toNat_ofInt]
  omega

theorem incWrap_toNat (x : Word) : (incWrap x).toNat = if x.toNat = 255 then 0 else x.toNat + 1 := by
  revert x
  decide

theorem decWrap_toNat (x : Word) : (decWrap x).toNat = if x.toNat = 0 then 255 else x.toNat - 1 := by
  revert x
  decide

theorem shiftLeftOne_toNat (x : Word) : (shiftLeftOne x).toNat = 2 * x.toNat % 256 := by
  revert x
  decide

theorem shiftRightOne_toNat (x : Word) : (shiftRightOne x).toNat = x.toNat / 2 := by
  revert x
  decide

end Sys2Proof.Machine
end

