-- ==== Sys2Proof/Laws/Memory.lean ====
section
/-! SUPPORT. The laws of one address space: what a read gives after a write, and that every memory operation gives the
canonical form. -/

namespace Sys2Proof.Machine

@[simp] theorem Memory.read_nil (i : Index) : Memory.read [] i = 0x00#8 := rfl

theorem Memory.read_cons (k : Nat) (v : Word) (m : Memory) (i : Index) :
    Memory.read ((k, v) :: m) i = if k = i.toNat then v else Memory.read m i := rfl

/-- Reading from the slots listed by `ks`: the function's value on a slot that is listed, the empty word elsewhere. -/
theorem Memory.read_filterMap (f : Index → Word) (i : Index) (ks : List Nat) :
    Memory.read (ks.filterMap fun k =>
        if f (BitVec.ofNat 4 k) = 0x00#8 then none else some (k, f (BitVec.ofNat 4 k))) i
      = if i.toNat ∈ ks then f i else 0x00#8 := by
  induction ks with
  | nil => simp
  | cons k ks ih =>
    by_cases hk : k = i.toNat
    · subst hk
      by_cases hf : f i = 0x00#8
      · simp [hf, ih]
      · simp [hf, Memory.read_cons]
    · have hk' : i.toNat ≠ k := fun h => hk h.symm
      by_cases hf : f (BitVec.ofNat 4 k) = 0x00#8
      · simp [hf, ih, hk']
      · simp [hf, ih, hk, hk', Memory.read_cons]

@[simp] theorem Memory.read_ofFn (f : Index → Word) (i : Index) : Memory.read (Memory.ofFn f) i = f i := by
  have hi : i.toNat ∈ List.range' 0 Config.ramSize := by
    have := i.isLt
    simp [List.mem_range'_1, Config.ramSize]
    omega
  rw [Memory.ofFn, Memory.read_filterMap, if_pos hi]

/-- Read over write: the written slot holds the word, every other slot is as it was. -/
theorem Memory.read_write (m : Memory) (i j : Index) (v : Word) :
    Memory.read (Memory.write m i v) j = if j = i then v else Memory.read m j := by
  simp [Memory.write]

@[simp] theorem Memory.read_write_self (m : Memory) (i : Index) (v : Word) :
    Memory.read (Memory.write m i v) i = v := by
  simp [Memory.read_write]

theorem Memory.read_write_of_ne (m : Memory) {i j : Index} (v : Word) (h : j ≠ i) :
    Memory.read (Memory.write m i v) j = Memory.read m j := by
  simp [Memory.read_write, h]

/-- A memory that is canonical from a slot on is canonical from any lower slot on. -/
theorem Memory.wfFrom_mono {lo lo' : Nat} (h : lo' ≤ lo) (m : Memory) (hm : Memory.wfFrom lo m = true) :
    Memory.wfFrom lo' m = true := by
  cases m with
  | nil => rfl
  | cons c m =>
    simp only [Memory.wfFrom, Bool.and_eq_true, decide_eq_true_eq] at hm ⊢
    exact ⟨⟨⟨by omega, hm.1.1.2⟩, hm.1.2⟩, hm.2⟩

theorem Memory.wfFrom_filterMap (f : Index → Word) (n lo : Nat) (h : lo + n ≤ Config.ramSize) :
    Memory.wfFrom lo ((List.range' lo n).filterMap fun k =>
        if f (BitVec.ofNat 4 k) = 0x00#8 then none else some (k, f (BitVec.ofNat 4 k))) = true := by
  induction n generalizing lo with
  | zero => rfl
  | succ n ih =>
    have hrest := ih (lo + 1) (by omega)
    by_cases hf : f (BitVec.ofNat 4 lo) = 0x00#8
    · simpa [List.range'_succ, hf] using Memory.wfFrom_mono (Nat.le_succ lo) _ hrest
    · simp only [List.range'_succ, List.filterMap_cons, hf, if_false, Memory.wfFrom, Bool.and_eq_true,
        decide_eq_true_eq, bne_iff_ne, ne_eq, not_false_eq_true]
      exact ⟨⟨⟨by omega, by omega⟩, trivial⟩, hrest⟩

@[simp] theorem Memory.wf_nil : Memory.wf [] = true := rfl

@[simp] theorem Memory.wf_ofFn (f : Index → Word) : Memory.wf (Memory.ofFn f) = true :=
  Memory.wfFrom_filterMap f Config.ramSize 0 (Nat.le_refl _)

@[simp] theorem Memory.wf_write (m : Memory) (i : Index) (v : Word) : Memory.wf (Memory.write m i v) = true :=
  Memory.wf_ofFn _

@[simp] theorem writeData_none (m : Memory) : writeData m none = m := rfl

@[simp] theorem writeData_some (m : Memory) (i : Index) (v : Word) :
    writeData m (some (i, v)) = Memory.write m i v := rfl

theorem wf_writeData {m : Memory} (h : Memory.wf m = true) (w : Option (Index × Word)) :
    Memory.wf (writeData m w) = true := by
  cases w with
  | none => exact h
  | some p => exact Memory.wf_write m p.1 p.2

/-- A DATA write changes no slot but its own. -/
theorem read_writeData_of_ne (m : Memory) (w : Option (Index × Word)) (j : Index) (h : ∀ p ∈ w, j ≠ p.1) :
    Memory.read (writeData m w) j = Memory.read m j := by
  cases w with
  | none => rfl
  | some p => exact Memory.read_write_of_ne m p.2 (h p rfl)

end Sys2Proof.Machine
end

