-- ==== Sys2Proof/Laws/Operands.lean ====
section
/-! SUPPORT. The effective address of each instruction, one lemma each (spec/30_encoding.md R74). -/

namespace Sys2Proof.Machine

@[simp] theorem resolve_and (s : State) : resolve .and s = .data 11#4 := rfl
@[simp] theorem resolve_or (s : State) : resolve .or s = .data 12#4 := rfl
@[simp] theorem resolve_init (s : State) : resolve .init s = .data 13#4 := rfl
@[simp] theorem resolve_xor (s : State) : resolve .xor s = .data 14#4 := rfl
@[simp] theorem resolve_read (a : Index) (s : State) : resolve (.read a) s = .data a := rfl
@[simp] theorem resolve_write (a : Index) (s : State) : resolve (.write a) s = .data a := rfl
@[simp] theorem resolve_add (a : Index) (s : State) : resolve (.add a) s = .data a := rfl
@[simp] theorem resolve_sub (a : Index) (s : State) : resolve (.sub a) s = .data a := rfl
@[simp] theorem resolve_jump (a : Index) (s : State) : resolve (.jump a) s = .code a := rfl
@[simp] theorem resolve_ifMax (a : Index) (s : State) : resolve (.ifMax a) s = .code a := rfl
@[simp] theorem resolve_ifNotMax (a : Index) (s : State) : resolve (.ifNotMax a) s = .code a := rfl
@[simp] theorem resolve_ifMin (a : Index) (s : State) : resolve (.ifMin a) s = .code a := rfl
@[simp] theorem resolve_ifNotMin (a : Index) (s : State) : resolve (.ifNotMin a) s = .code a := rfl
@[simp] theorem resolve_readPtr (a : Index) (s : State) :
    resolve (.readPtr a) s = .data (wordIndex (dataWord s a)) := rfl
@[simp] theorem resolve_writePtr (a : Index) (s : State) :
    resolve (.writePtr a) s = .data (wordIndex (dataWord s a)) := rfl
@[simp] theorem resolve_print (a : Index) (s : State) : resolve (.print a) s = .data a := rfl
@[simp] theorem resolve_jumpReg (s : State) : resolve .jumpReg s = .code (wordIndex s.reg) := rfl
@[simp] theorem resolve_readReg (s : State) : resolve .readReg s = .data (wordIndex s.reg) := rfl
@[simp] theorem firstOrderAt_init_one : firstOrderAt .init 1 = .data 0#4 := rfl

theorem wordIndex_toNat (v : Word) : (wordIndex v).toNat = v.toNat % 16 := by
  simp [wordIndex]

end Sys2Proof.Machine
end

