-- ==== Sys2Proof/Laws/State.lean ====
section
/-! SUPPORT. One lemma per field per update of the state, so that no later proof unfolds a record update. -/

namespace Sys2Proof.Machine

@[simp] theorem commit_pc (s : State) (e : Effect) : (commit s e).pc = e.npc := rfl
@[simp] theorem commit_reg (s : State) (e : Effect) : (commit s e).reg = e.nreg := rfl
@[simp] theorem commit_run (s : State) (e : Effect) :
    (commit s e).run = if e.halt then .halted else s.run := rfl
@[simp] theorem commit_cancelReq (s : State) (e : Effect) : (commit s e).cancelReq = s.cancelReq := rfl
@[simp] theorem commit_code (s : State) (e : Effect) : (commit s e).code = s.code := rfl
@[simp] theorem commit_data (s : State) (e : Effect) : (commit s e).data = writeData s.data e.write := rfl
@[simp] theorem commit_snapshot (s : State) (e : Effect) : (commit s e).snapshot = s.snapshot := rfl
@[simp] theorem commit_codeWord (s : State) (e : Effect) (i : Index) :
    codeWord (commit s e) i = codeWord s i := rfl
@[simp] theorem commit_dataWord (s : State) (e : Effect) (i : Index) :
    dataWord (commit s e) i = Memory.read (writeData s.data e.write) i := rfl

@[simp] theorem freshCpu_pc (s : State) : (freshCpu s).pc = 0#4 := rfl
@[simp] theorem freshCpu_reg (s : State) : (freshCpu s).reg = 0x00#8 := rfl
@[simp] theorem freshCpu_run (s : State) : (freshCpu s).run = .running := rfl
@[simp] theorem freshCpu_cancelReq (s : State) : (freshCpu s).cancelReq = false := rfl
@[simp] theorem freshCpu_code (s : State) : (freshCpu s).code = s.code := rfl
@[simp] theorem freshCpu_data (s : State) : (freshCpu s).data = s.data := rfl
@[simp] theorem freshCpu_snapshot (s : State) : (freshCpu s).snapshot = s.snapshot := rfl

@[simp] theorem requestCancel_pc (s : State) : (requestCancel s).pc = s.pc := rfl
@[simp] theorem requestCancel_reg (s : State) : (requestCancel s).reg = s.reg := rfl
@[simp] theorem requestCancel_run (s : State) : (requestCancel s).run = s.run := rfl
@[simp] theorem requestCancel_cancelReq (s : State) : (requestCancel s).cancelReq = true := rfl
@[simp] theorem requestCancel_code (s : State) : (requestCancel s).code = s.code := rfl
@[simp] theorem requestCancel_data (s : State) : (requestCancel s).data = s.data := rfl
@[simp] theorem requestCancel_snapshot (s : State) : (requestCancel s).snapshot = s.snapshot := rfl

@[simp] theorem startRun_pc (s : State) : (startRun s).pc = 0#4 := rfl
@[simp] theorem startRun_reg (s : State) : (startRun s).reg = 0x00#8 := rfl
@[simp] theorem startRun_run (s : State) : (startRun s).run = .running := rfl
@[simp] theorem startRun_cancelReq (s : State) : (startRun s).cancelReq = false := rfl
@[simp] theorem startRun_code (s : State) : (startRun s).code = s.code := rfl
@[simp] theorem startRun_data (s : State) : (startRun s).data = s.data := rfl
@[simp] theorem startRun_snapshot (s : State) :
    (startRun s).snapshot = some { code := s.code, data := s.data } := rfl

@[simp] theorem loadWords_pc (ws : List Word) (s : State) : (loadWords ws s).pc = s.pc := rfl
@[simp] theorem loadWords_reg (ws : List Word) (s : State) : (loadWords ws s).reg = s.reg := rfl
@[simp] theorem loadWords_run (ws : List Word) (s : State) : (loadWords ws s).run = s.run := rfl
@[simp] theorem loadWords_cancelReq (ws : List Word) (s : State) :
    (loadWords ws s).cancelReq = s.cancelReq := rfl
@[simp] theorem loadWords_snapshot (ws : List Word) (s : State) :
    (loadWords ws s).snapshot = s.snapshot := rfl

/-- With a snapshot, run end gives the snapshot's memory, no snapshot, and a fresh CPU state. -/
theorem endRun_of_snapshot {s : State} {n : Snapshot} (h : s.snapshot = some n) :
    endRun s = freshCpu { s with code := n.code, data := n.data, snapshot := none } := by
  simp [endRun, restoreMemory, h]

end Sys2Proof.Machine
end

