-- ==== Sys2Proof/Laws/Ops.lean ====
section
/-! SUPPORT. For each shared operation, one lemma that says once everything it can do; callers cite it. -/

namespace Sys2Proof.Machine

theorem nextReg_next {s t : State} {v : Word} (h : nextReg s v = .next t) :
    t = { s with pc := advance s.pc, reg := v } := by
  simp [nextReg, commit] at h
  exact h.symm

theorem nextStore_next {s t : State} {i : Index} {v : Word} {halt : Bool} (h : nextStore s i v halt = .next t) :
    t = { s with pc := advance s.pc, run := if halt then .halted else s.run, data := Memory.write s.data i v } := by
  simp [nextStore, commit] at h
  exact h.symm

theorem nextPc_next {s t : State} {target : Index} (h : nextPc s target = .next t) :
    t = { s with pc := target } := by
  simp [nextPc, commit] at h
  exact h.symm

theorem onData_next {a : Addr} {k : Index → Result} {t : State} (h : onData a k = .next t) :
    ∃ i, a = .data i ∧ k i = .next t := by
  cases a with
  | data i => exact ⟨i, rfl, h⟩
  | code _ => simp [onData] at h
  | none => simp [onData] at h

theorem onCode_next {a : Addr} {k : Index → Result} {t : State} (h : onCode a k = .next t) :
    ∃ i, a = .code i ∧ k i = .next t := by
  cases a with
  | code i => exact ⟨i, rfl, h⟩
  | data _ => simp [onCode] at h
  | none => simp [onCode] at h

theorem branch_next {s t : State} {taken : Bool} {a : Addr} (h : branch s taken a = .next t) :
    ∃ i, a = .code i ∧ t = { s with pc := if taken then i else advance s.pc } := by
  obtain ⟨i, ha, hk⟩ := onCode_next h
  exact ⟨i, ha, nextPc_next hk⟩

@[simp] theorem onData_data (i : Index) (k : Index → Result) : onData (.data i) k = k i := rfl
@[simp] theorem onCode_code (i : Index) (k : Index → Result) : onCode (.code i) k = k i := rfl

/-- A step in RUNNING executes the fetched instruction. -/
theorem step_of_running {s : State} (h : s.run = .running) : step s = exec (decode (fetch s)) s := by
  simp [step, h]

/-- A step in HALTED changes nothing. -/
theorem step_of_halted {s : State} (h : s.run = .halted) : step s = .next s := by
  simp [step, h]

@[simp] theorem contAfter_eq_true {t : State} : contAfter t = true ↔ t.run = .running := by
  cases h : t.run <;> simp [contAfter, h]

@[simp] theorem contAfter_eq_false {t : State} : contAfter t = false ↔ t.run = .halted := by
  cases h : t.run <;> simp [contAfter, h]

/-- What one turn of the run controller does when no cancellation is pending and its step answers a next state. -/
theorem controlTick_of_step {s t : State} (hc : s.cancelReq = false) (h : step s = .next t) :
    controlTick s = .next (if t.run = .running then .active t
      else .ended { reason := .halt, reg := t.reg } (endRun t)) := by
  cases hr : t.run <;> simp [controlTick, stepCont, hc, h, contAfter, hr]

/-- What one turn of the run controller does when a cancellation is pending. -/
theorem controlTick_of_cancel {s : State} (hc : s.cancelReq = true) :
    controlTick s = .next (.ended { reason := .cancel, reg := s.reg } (endRun s)) := by
  simp [controlTick, hc]

/-- The loop of the run controller after one turn that leaves the run active. -/
theorem runLoop_of_active {c : Bool} {cs : List Bool} {s t : State}
    (h : controlTick (if c then requestCancel s else s) = .next (.active t)) : runLoop (c :: cs) s = runLoop cs t := by
  simp [runLoop, h]

/-- The loop of the run controller after one turn that ends the run. -/
theorem runLoop_of_ended {c : Bool} {cs : List Bool} {s t : State} {r : RunResult}
    (h : controlTick (if c then requestCancel s else s) = .next (.ended r t)) :
    runLoop (c :: cs) s = .next (.ended r t) := by
  simp [runLoop, h]

/-- What a CODE slot holds after words are loaded. -/
@[simp] theorem codeWord_loadWords (ws : List Word) (s : State) (i : Index) :
    codeWord (loadWords ws s) i = (ws[i.toNat]?).getD (codeWord s i) := by
  simp [loadWords, codeWord]

/-- What a DATA slot holds after words are loaded. -/
@[simp] theorem dataWord_loadWords (ws : List Word) (s : State) (i : Index) :
    dataWord (loadWords ws s) i = (ws[16 + i.toNat]?).getD (dataWord s i) := by
  simp [loadWords, dataWord, Config.ramSize]

end Sys2Proof.Machine
end

