-- ==== Sys2Proof/Laws/PerInstr.lean ====
section
/-! SUPPORT. Statements about every instruction as syntax, one lemma per constructor. -/

namespace Sys2Proof.Laws

/-- `EncodedOpcode`: the opcode nibble of an instruction's canonical word is its row's (spec/30_encoding.md R66). -/
def EncodedOpcode.expected : Instr → Nibble
  | .and => 0x0#4
  | .or => 0x0#4
  | .init => 0x0#4
  | .xor => 0x0#4
  | .read _ => 0x0#4
  | .write _ => 0x1#4
  | .add _ => 0x2#4
  | .sub _ => 0x3#4
  | .jump _ => 0x4#4
  | .ifMax _ => 0x5#4
  | .ifNotMax _ => 0x6#4
  | .ifMin _ => 0x7#4
  | .ifNotMin _ => 0x8#4
  | .readPtr _ => 0x9#4
  | .writePtr _ => 0xA#4
  | .print _ => 0xB#4
  | .not => 0xD#4
  | .jumpReg => 0xC#4
  | .readReg => 0xC#4
  | .shiftL => 0xE#4
  | .shiftR => 0xE#4
  | .inc => 0xF#4
  | .dec => 0xF#4

/-- The family's statement about one instruction. -/
def EncodedOpcode.Statement (i : Instr) : Prop := opcode (encode i) = EncodedOpcode.expected i

theorem opcode_wordOf (op : Nibble) (a : Index) : opcode (wordOf op a) = op := by
  revert op a
  decide

theorem operand_wordOf (op : Nibble) (a : Index) : operand (wordOf op a) = a := by
  revert op a
  decide

theorem EncodedOpcode.and : EncodedOpcode.Statement .and := opcode_wordOf _ _
theorem EncodedOpcode.or : EncodedOpcode.Statement .or := opcode_wordOf _ _
theorem EncodedOpcode.init : EncodedOpcode.Statement .init := opcode_wordOf _ _
theorem EncodedOpcode.xor : EncodedOpcode.Statement .xor := opcode_wordOf _ _
theorem EncodedOpcode.read (a : Index) : EncodedOpcode.Statement (.read a) := opcode_wordOf _ _
theorem EncodedOpcode.write (a : Index) : EncodedOpcode.Statement (.write a) := opcode_wordOf _ _
theorem EncodedOpcode.add (a : Index) : EncodedOpcode.Statement (.add a) := opcode_wordOf _ _
theorem EncodedOpcode.sub (a : Index) : EncodedOpcode.Statement (.sub a) := opcode_wordOf _ _
theorem EncodedOpcode.jump (a : Index) : EncodedOpcode.Statement (.jump a) := opcode_wordOf _ _
theorem EncodedOpcode.ifMax (a : Index) : EncodedOpcode.Statement (.ifMax a) := opcode_wordOf _ _
theorem EncodedOpcode.ifNotMax (a : Index) : EncodedOpcode.Statement (.ifNotMax a) := opcode_wordOf _ _
theorem EncodedOpcode.ifMin (a : Index) : EncodedOpcode.Statement (.ifMin a) := opcode_wordOf _ _
theorem EncodedOpcode.ifNotMin (a : Index) : EncodedOpcode.Statement (.ifNotMin a) := opcode_wordOf _ _
theorem EncodedOpcode.readPtr (a : Index) : EncodedOpcode.Statement (.readPtr a) := opcode_wordOf _ _
theorem EncodedOpcode.writePtr (a : Index) : EncodedOpcode.Statement (.writePtr a) := opcode_wordOf _ _
theorem EncodedOpcode.print (a : Index) : EncodedOpcode.Statement (.print a) := opcode_wordOf _ _
theorem EncodedOpcode.not : EncodedOpcode.Statement .not := opcode_wordOf _ _
theorem EncodedOpcode.jumpReg : EncodedOpcode.Statement .jumpReg := opcode_wordOf _ _
theorem EncodedOpcode.readReg : EncodedOpcode.Statement .readReg := opcode_wordOf _ _
theorem EncodedOpcode.shiftL : EncodedOpcode.Statement .shiftL := opcode_wordOf _ _
theorem EncodedOpcode.shiftR : EncodedOpcode.Statement .shiftR := opcode_wordOf _ _
theorem EncodedOpcode.inc : EncodedOpcode.Statement .inc := opcode_wordOf _ _
theorem EncodedOpcode.dec : EncodedOpcode.Statement .dec := opcode_wordOf _ _

end Sys2Proof.Laws
end

