-- ==== Sys2Proof/Tests/Slice0.lean ====
section
/-! SUPPORT. Small tests. Words and results are those of spec/95_test_vectors.md (the vector's id stands at each test), which
that file computed by hand from the rules; the encodings are written out bit by bit from the rule of each instruction.
Last, one witness for each statement that has hypotheses. -/

open Sys2Proof Sys2Proof.Machine Sys2Proof.Statements

namespace Sys2Proof.Tests

/-! ### WellFormed: an ill-formed term for each check (R67, R101, R102) -/

theorem test_wellFormed_refuses_read_of_bound :
    (Instr.read 11#4).wellFormed = false ∧ (Instr.read 12#4).wellFormed = false ∧
    (Instr.read 13#4).wellFormed = false ∧ (Instr.read 14#4).wellFormed = false := by decide

theorem test_wellFormed_refuses_write_of_bound :
    (Instr.write 11#4).wellFormed = false ∧ (Instr.write 12#4).wellFormed = false ∧
    (Instr.write 13#4).wellFormed = false ∧ (Instr.write 14#4).wellFormed = false := by decide

theorem test_wellFormed_accepts_the_neighbours :
    (Instr.read 10#4).WellFormed ∧ (Instr.write 15#4).WellFormed ∧ (Instr.add 11#4).WellFormed := by decide

/-! ### Decode: one word per constructor -/

theorem test_decode_and : decode 0b00001011#8 = .and ∧ decode 0b00011011#8 = .and := by decide
theorem test_decode_or : decode 0b00001100#8 = .or ∧ decode 0b00011100#8 = .or := by decide
theorem test_decode_init : decode 0b00001101#8 = .init ∧ decode 0b00011101#8 = .init := by decide
theorem test_decode_xor : decode 0b00001110#8 = .xor ∧ decode 0b00011110#8 = .xor := by decide
theorem test_decode_read : decode 0b00000011#8 = .read 3#4 := by decide
theorem test_decode_write : decode 0b00010101#8 = .write 5#4 := by decide
theorem test_decode_add : decode 0b00100001#8 = .add 1#4 := by decide
theorem test_decode_sub : decode 0b00111011#8 = .sub 11#4 := by decide
theorem test_decode_jump : decode 0b01000001#8 = .jump 1#4 := by decide
theorem test_decode_ifMax : decode 0b01010100#8 = .ifMax 4#4 := by decide
theorem test_decode_ifNotMax : decode 0b01100010#8 = .ifNotMax 2#4 := by decide
theorem test_decode_ifMin : decode 0b01110111#8 = .ifMin 7#4 := by decide
theorem test_decode_ifNotMin : decode 0b10000000#8 = .ifNotMin 0#4 := by decide
theorem test_decode_readPtr : decode 0b10010010#8 = .readPtr 2#4 := by decide
theorem test_decode_writePtr : decode 0b10101111#8 = .writePtr 15#4 := by decide
theorem test_decode_print : decode 0b10111101#8 = .print 13#4 := by decide
theorem test_decode_not : decode 0b11010111#8 = .not := by decide
theorem test_decode_jumpReg : decode 0b11001110#8 = .jumpReg := by decide
theorem test_decode_readReg : decode 0b11000001#8 = .readReg := by decide
theorem test_decode_shiftL : decode 0b11100000#8 = .shiftL := by decide
theorem test_decode_shiftR : decode 0b11101001#8 = .shiftR := by decide
theorem test_decode_inc : decode 0b11111110#8 = .inc := by decide
theorem test_decode_dec : decode 0b11110001#8 = .dec := by decide

theorem test_encode_host_word : encode .and = 0x0B#8 ∧ encode .readReg = 0xC1#8 ∧ encode (.write 15#4) = 0x1F#8 := by
  decide

theorem test_decodeTableWord : decodeTableWord 8 0x92 = some (.readPtr 2#4) ∧ decodeTableWord 16 0x92 = none := by decide

/-- V-D vectors of operand re-encoding (R77). -/
theorem test_withOperand :
    withOperand 0x05#8 11#4 = 0x0B#8 ∧ withOperand 0x0B#8 10#4 = 0x0A#8 ∧ withOperand 0x45#8 6#4 = 0x46#8 := by decide

/-- R78: the text of an instruction. -/
theorem test_assembly :
    disassemble 0x1B#8 = ['A', 'N', 'D'] ∧ disassemble 0x9F#8 = ['R', 'E', 'A', 'D', '_', 'P', 'T', 'R', ' ', '1', '5'] ∧
    assemble ['J', 'U', 'M', 'P', ' ', '0', 'x', 'F'] = some 0x4F#8 ∧
    assemble ['R', 'E', 'A', 'D', ' ', '1', '1'] = none := by decide

/-! ### One step, from pc = 4 -/

/-- The start state of the vectors: the word at CODE 4, a register value, and DATA. -/
def start (w r : Word) (d : Memory) : State :=
  { State.reset with pc := 4#4, reg := r, code := Memory.write [] 4#4 w, data := d }

/-- A field of the state after one step from there, if there is a next state. -/
def after {α : Type} (w r : Word) (d : Memory) (f : State → α) : Option α :=
  match step (start w r d) with
  | .next t => some (f t)
  | .fault _ => none
  | .refused _ => none

/-- V-T1. -/
theorem test_read : after 0x03#8 0x11#8 [(3, 0x2A#8)] (fun t => (t.reg, t.pc)) = some (0x2A#8, 5#4) := by decide
/-- V-T3. -/
theorem test_write : after 0x15#8 0x07#8 [] (fun t => (t.data, t.run)) = some ([(5, 0x07#8)], .running) := by decide
/-- V-T4. -/
theorem test_write_halts :
    after 0x1F#8 0x99#8 [] (fun t => (t.data, t.pc, t.run)) = some ([(15, 0x99#8)], 5#4, .halted) := by decide
/-- V-T5. -/
theorem test_readPtr : after 0x92#8 0x00#8 [(2, 0x05#8), (5, 0x99#8)] State.reg = some 0x99#8 := by decide
/-- V-T6: a pointer to itself, high nibble ignored. -/
theorem test_readPtr_self : after 0x92#8 0x00#8 [(2, 0xE2#8)] State.reg = some 0xE2#8 := by decide
/-- V-T9: the effective address halts. -/
theorem test_writePtr_halts :
    after 0xA2#8 0x40#8 [(2, 0x1F#8)] (fun t => (t.data, t.run)) = some ([(2, 0x1F#8), (15, 0x40#8)], .halted) := by decide
/-- V-T11: the first-order address 15 does not halt. -/
theorem test_writePtr_through_15 :
    after 0xAF#8 0x40#8 [(15, 0x03#8)] (fun t => (t.data, t.run)) = some ([(3, 0x40#8), (15, 0x03#8)], .running) := by
  decide
/-- V-T12. -/
theorem test_readReg : after 0xC1#8 0x3D#8 [(13, 0x0B#8)] State.reg = some 0x0B#8 := by decide
/-- V-T14. -/
theorem test_print :
    after 0xB0#8 0x00#8 [(0, 0x5A#8)] (fun t => (t.data, t.run)) = some ([(0, 0x5A#8), (15, 0x5A#8)], .running) := by decide
/-- V-A1 and V-A3. -/
theorem test_add : after 0x21#8 0x10#8 [(1, 0x22#8)] State.reg = some 0x32#8 := by decide
theorem test_add_clamps : after 0x21#8 0xC8#8 [(1, 0x64#8)] State.reg = some 0xFF#8 := by decide
/-- V-A6 and V-A7. -/
theorem test_sub : after 0x31#8 0x32#8 [(1, 0x22#8)] State.reg = some 0x10#8 := by decide
theorem test_sub_clamps : after 0x31#8 0x05#8 [(1, 0x09#8)] State.reg = some 0x00#8 := by decide
/-- V-A10. -/
theorem test_inc_wraps : after 0xF0#8 0xFF#8 [] State.reg = some 0x00#8 := by decide
/-- V-A12. -/
theorem test_dec_wraps : after 0xF1#8 0x00#8 [] State.reg = some 0xFF#8 := by decide
/-- V-A14. -/
theorem test_not : after 0xD0#8 0x62#8 [] State.reg = some 0x9D#8 := by decide
/-- V-A16. -/
theorem test_shiftL : after 0xE0#8 0x41#8 [] State.reg = some 0x82#8 := by decide
/-- V-A18. -/
theorem test_shiftR : after 0xE1#8 0xC5#8 [] State.reg = some 0x62#8 := by decide
/-- V-A22. -/
theorem test_and : after 0x1B#8 0x5A#8 [(11, 0x0F#8)] (fun t => (t.reg, t.data)) = some (0x0A#8, [(11, 0x0F#8)]) := by decide
/-- V-A23. -/
theorem test_or : after 0x0C#8 0x0A#8 [(12, 0x30#8)] State.reg = some 0x3A#8 := by decide
/-- V-A24. -/
theorem test_xor : after 0x1E#8 0x3A#8 [(14, 0xFF#8)] State.reg = some 0xC5#8 := by decide
/-- V-A26. -/
theorem test_init :
    after 0x0D#8 0x77#8 [(0, 0x5A#8), (13, 0x01#8)] (fun t => (t.data, t.reg)) =
      some ([(0, 0x5A#8), (13, 0x5A#8)], 0x77#8) := by decide
/-- V-A27: writing the empty word takes the slot off the list. -/
theorem test_init_zero : after 0x1D#8 0x00#8 [(13, 0xFF#8)] State.data = some [] := by decide
/-- V-C1. -/
theorem test_jump : after 0x41#8 0x00#8 [] State.pc = some 1#4 := by decide
/-- V-C4. -/
theorem test_jumpReg : after 0xC0#8 0xF4#8 [] State.pc = some 4#4 := by decide
/-- V-C5 and V-C6. -/
theorem test_ifMax : after 0x59#8 0xFF#8 [] State.pc = some 9#4 := by decide
theorem test_ifMax_falls_through : after 0x59#8 0xFE#8 [] State.pc = some 5#4 := by decide
/-- V-C8 and V-C7. -/
theorem test_ifNotMax : after 0x69#8 0xFE#8 [] State.pc = some 9#4 := by decide
theorem test_ifNotMax_falls_through : after 0x69#8 0xFF#8 [] State.pc = some 5#4 := by decide
/-- V-C9 and V-C10. -/
theorem test_ifMin : after 0x79#8 0x00#8 [] State.pc = some 9#4 := by decide
theorem test_ifMin_falls_through : after 0x79#8 0x01#8 [] State.pc = some 5#4 := by decide
/-- V-C12 and V-C11. -/
theorem test_ifNotMin : after 0x89#8 0x01#8 [] State.pc = some 9#4 := by decide
theorem test_ifNotMin_falls_through : after 0x89#8 0x00#8 [] State.pc = some 5#4 := by decide

/-- V-S1: the sequential advance wraps. -/
theorem test_pc_wraps : advance 15#4 = 0#4 := by decide

/-- The host's way of running one word first after reset. -/
theorem test_withFetchWord :
    fetch (State.reset.withFetchWord 8 0x1F) = 0x1F#8 ∧ (State.reset.withFetchWord 8 0x1F).run = .running := by decide

/-! ### Host queries, runs -/

/-- V-B1, V-B2 and V-B5. -/
theorem test_boundAt :
    boundAt { State.reset with code := [(0, 0x0B#8)] } 11#4 = true ∧
    boundAt { State.reset with code := [(0, 0x0B#8)] } 12#4 = false ∧
    boundAt { State.reset with code := [(0, 0x2C#8)] } 12#4 = false := by decide

/-- V-B3 and V-B4. -/
theorem test_boundAt_scan :
    boundAt State.reset 14#4 = false ∧
    boundAt { State.reset with code := [(0, 0x01#8), (3, 0x1E#8)] } 14#4 = true := by decide

/-- The result and the state after a run that ended. -/
def ended (o : Host.Outcome RunStatus Fault Refusal) : Option (RunResult × State) :=
  match o with
  | .next (.ended r t) => some (r, t)
  | .next (.active _) => none
  | .fault _ => none
  | .refused _ => none

/-- V-S2: cancelled before the first step; memory is as it was, the CPU state fresh. -/
theorem test_cancel_before_the_first_step :
    ended (runUntilHaltOrCancel [true] (start 0xF0#8 0x11#8 [(1, 0x22#8)])) =
      some ({ reason := .cancel, reg := 0x00#8 }, { start 0xF0#8 0x00#8 [(1, 0x22#8)] with pc := 0#4 }) := by decide

/-- A one-step program that halts (R226): the output slot is restored. -/
theorem test_halting_run_restores :
    ended (runUntilHaltOrCancel [false] { State.reset with code := [(0, 0x1F#8)], data := [(15, 0x07#8)] }) =
      some ({ reason := .halt, reg := 0x00#8 }, { State.reset with code := [(0, 0x1F#8)], data := [(15, 0x07#8)] }) := by
  decide

/-- R227 steps 4 and 5: the seventeenth word is DATA 0. -/
theorem test_loadWords :
    dataWord (loadWords (List.replicate 16 0x11#8 ++ [0x22#8]) State.reset) 0#4 = 0x22#8 ∧
    codeWord (loadWords [0x33#8] State.reset) 1#4 = 0x00#8 := by decide

/-! ### Witnesses: for every statement with hypotheses, values that meet them together -/

theorem witness_DecodeInvertsEncode : (Instr.read 15#4).WellFormed ∧ (Instr.write 10#4).WellFormed := by decide

theorem witness_BoundOperandsSelectTheLogicOperations :
    (0x1#4) ∈ [0x0#4, 0x1#4] ∧ (14#4) ∈ [11#4, 12#4, 13#4, 14#4] := by decide

theorem witness_IgnoredBitsHaveNoEffect :
    SameButIgnoredBits 0xD0#8 0xDF#8 ∧ SameButIgnoredBits 0xC1#8 0xCF#8 ∧ SameButIgnoredBits 0x2B#8 0x2B#8 :=
  ⟨.inr (.inl (by decide)), .inr (.inr (by decide)), .inl rfl⟩

theorem witness_StepRunsTheDecodedInstruction :
    (start 0xF0#8 0x00#8 []).run = .running ∧ ({ State.reset with run := .halted } : State).run = .halted := by decide

theorem witness_StepKeepsTheInvariant :
    State.Inv (start 0x1F#8 0x99#8 []) ∧
      ∃ t, step (start 0x1F#8 0x99#8 []) = .next t ∧ t.run = .halted ∧ dataWord t 15#4 = 0x99#8 :=
  ⟨⟨by decide, fun h => (by cases h), fun n h => (by cases h)⟩, _, rfl, by decide, by decide⟩

/-- A state that is not the reset state: it holds data and its next step halts. -/
theorem witness_RunsFromTheInvariantAreSafe : State.Inv (start 0xA2#8 0x40#8 [(2, 0x1F#8)]) :=
  ⟨by decide, fun h => (by cases h), fun n h => (by cases h)⟩

theorem witness_StartingARunEstablishesTheInvariant : State.MemoryCanonical (start 0xF0#8 0x00#8 [(1, 0x22#8)]) := by decide

theorem witness_HaltedMachineStaysAsItIs : ({ State.reset with run := .halted, reg := 0x10#8 } : State).run = .halted := rfl

/-- Each halting form in RUNNING, and a state whose next step is no halt signal. -/
theorem witness_OnlyTheHaltSignalHalts :
    (start 0x1F#8 0x99#8 []).run = .running ∧ HaltSignal (start 0x1F#8 0x99#8 []) ∧
    HaltSignal (start 0xA2#8 0x40#8 [(2, 0x1F#8)]) ∧ ¬ HaltSignal (start 0xBF#8 0x40#8 []) :=
  ⟨rfl, ⟨.inl ⟨15#4, by decide⟩, by decide⟩, ⟨.inr ⟨2#4, by decide⟩, by decide⟩, fun h => by
    obtain ⟨h | h, -⟩ := h <;> obtain ⟨a, h⟩ := h <;> revert a <;> decide⟩

/-- READ_PTR reads two slots; another DATA agrees on them and differs elsewhere. -/
theorem witness_EveryInstructionReadsOnlyItsRowOfTheAccessTable :
    ∀ j ∈ readsFrom (.readPtr 2#4) (start 0x92#8 0x00#8 [(2, 0x05#8), (5, 0x99#8)]),
      Memory.read [(2, 0x05#8), (5, 0x99#8), (7, 0x01#8)] j
        = dataWord (start 0x92#8 0x00#8 [(2, 0x05#8), (5, 0x99#8)]) j := by decide

theorem witness_NoneIsNeverDereferenced : resolve .inc State.reset = .none := rfl

theorem witness_ProgramCounterAdvancesOrTakesTheTarget :
    TransfersControl (.jump 3#4) State.reset ∧ TransfersControl (.ifMin 3#4) State.reset ∧
    ¬ TransfersControl (.ifNotMin 3#4) State.reset ∧ ¬ TransfersControl (.write 15#4) State.reset ∧
    category .jumpReg = .transfer ∧ category (.write 15#4) = .sequential :=
  ⟨trivial, rfl, fun h => h rfl, fun h => h, rfl, rfl⟩

/-- Both ends of the first range, and the second. -/
theorem witness_ReadLoadsTheDataWord :
    ((0#4).toNat ≤ 10 ∨ (0#4).toNat = 15) ∧ ((10#4).toNat ≤ 10 ∨ (10#4).toNat = 15) ∧
    ((15#4).toNat ≤ 10 ∨ (15#4).toNat = 15) ∧ ¬ ((11#4).toNat ≤ 10 ∨ (11#4).toNat = 15) := by decide

theorem witness_WriteStoresTheRegister :
    ((0#4).toNat ≤ 10 ∨ (0#4).toNat = 15) ∧ ((10#4).toNat ≤ 10 ∨ (10#4).toNat = 15) ∧
    ((15#4).toNat ≤ 10 ∨ (15#4).toNat = 15) ∧ ¬ ((14#4).toNat ≤ 10 ∨ (14#4).toNat = 15) := by decide

theorem witness_AddAndSubClampWhereIncAndDecWrap :
    (start 0x21#8 0xFF#8 [(1, 0x01#8)]).reg = 0xFF#8 ∧ dataWord (start 0x21#8 0xFF#8 [(1, 0x01#8)]) 1#4 = 0x01#8 ∧
    (start 0x31#8 0x00#8 [(1, 0x01#8)]).reg = 0x00#8 ∧ dataWord (start 0x31#8 0x00#8 [(1, 0x01#8)]) 1#4 = 0x01#8 := by
  decide

/-- Another slot than the written one, at both ends of the range, and the written slot itself. -/
theorem witness_MemoryPrimitivesReplaceOneSlot :
    (15#4) ≠ 0#4 ∧ Memory.read (Memory.write [(15, 0x07#8)] 0#4 0x2A#8) 15#4 = 0x07#8 ∧
    (0#4) ≠ 15#4 ∧ Memory.read (Memory.write [(15, 0x07#8)] 15#4 0x2A#8) 0#4 = 0x00#8 ∧
    Memory.read (Memory.write [(15, 0x07#8)] 15#4 0x2A#8) 15#4 = 0x2A#8 := by decide

/-- The line clauses: a line of each skipped kind; the first character is bit 7, and a character that is missing is a 0 (the
last is bit 0). No line can be shown that the unknown marker does not begin, since nothing is known of it. -/
theorem witness_ImageLoadFillsCodeThenData :
    imageWords [[], Config.commentMarker] = [] ∧
    0 < 8 ∧ (lineWord [Config.oneChar]).getLsbD (7 - 0) = true ∧
    7 < 8 ∧ (lineWord [Config.oneChar]).getLsbD (7 - 7) = false := by
  simp [imageWords, skippedLine, lineWord, lineBit, Config.wordSize, List.range, List.range.loop]

theorem witness_CanonicalMemoriesThatReadAlikeAreEqual :
    Memory.wf (Memory.write [] 5#4 0x07#8) = true ∧ Memory.wf [(5, 0x07#8)] = true ∧
    ∀ i, Memory.read (Memory.write [] 5#4 0x07#8) i = Memory.read [(5, 0x07#8)] i := by decide

theorem witness_RunRestoresTheMemory :
    ∃ r t, runUntilHaltOrCancel [false] { State.reset with code := [(0, 0x1F#8)] } = .next (.ended r t) :=
  ⟨_, _, rfl⟩

/-- After one step of INC the machine still runs. -/
theorem witness_CancellationEndsTheRunAfterAnyNumberOfSteps :
    ∃ t, Host.Core.run Sys2Proof.core 1 (startRun { State.reset with code := [(0, 0xF0#8)] }) = .next t ∧
      t.run = .running ∧ t.reg = 0x01#8 :=
  ⟨_, rfl, by decide, by decide⟩

/-- After one step of INC the next step is WRITE 15. -/
theorem witness_RunEndsAtTheFirstHalt :
    ∃ t u, Host.Core.run Sys2Proof.core 1 (startRun { State.reset with code := [(0, 0xF0#8), (1, 0x1F#8)] }) = .next t ∧
      t.run = .running ∧ step t = .next u ∧ u.run = .halted :=
  ⟨_, _, rfl, by decide, rfl, by decide⟩

end Sys2Proof.Tests
end

/-! PROOF. Decoding as one equivalence: the words of an instruction are those that agree with its canonical word on the bits
its row of the opcode table fixes (spec/30_encoding.md R66 to R69). -/

namespace Sys2Proof

/-- The bits of a word that its instruction depends on: not the host bit of a bound operation (R67), and not the bits that
R69 calls ignored. The operand counts in full where the instruction keeps it. -/
def careMask : Instr → Word
  | .and | .or | .init | .xor => 0xEF#8
  | .read _ | .write _ | .add _ | .sub _ | .jump _ | .ifMax _ | .ifNotMax _ | .ifMin _ | .ifNotMin _ => 0xFF#8
  | .readPtr _ | .writePtr _ | .print _ => 0xFF#8
  | .not => 0xF0#8
  | .jumpReg | .readReg | .shiftL | .shiftR | .inc | .dec => 0xF1#8

theorem and_careMask_decode (w : Word) : w &&& careMask (decode w) = encode (decode w) := by
  revert w
  decide

theorem wellFormed_decode (w : Word) : (decode w).WellFormed := by
  revert w
  decide

theorem decode_encode {i : Instr} (hi : i.WellFormed) : decode (encode i) = i := by
  cases i with
  | and | or | init | xor | not | jumpReg | readReg | shiftL | shiftR | inc | dec => rfl
  | read a | write a => revert a; decide
  | add a | sub a | jump a | ifMax a | ifNotMax a | ifMin a | ifNotMin a | readPtr a | writePtr a | print a =>
    clear hi
    revert a
    decide

theorem decode_of_and_careMask {w : Word} {i : Instr} (hi : i.WellFormed) (h : w &&& careMask i = encode i) :
    decode w = i := by
  by_cases hm : careMask i = 0xFF#8
  · have hw : w = encode i := by
      rw [← h, hm]
      exact (BitVec.and_allOnes (x := w)).symm
    rw [hw, decode_encode hi]
  · cases i with
    | and | or | init | xor | not | jumpReg | readReg | shiftL | shiftR | inc | dec =>
      clear hi hm
      revert w
      decide
    | _ => exact absurd rfl hm

/-- Which words are the instruction `i`. -/
theorem decode_eq_iff (w : Word) (i : Instr) :
    decode w = i ↔ i.WellFormed ∧ w &&& careMask i = encode i := by
  constructor
  · rintro rfl
    exact ⟨wellFormed_decode w, and_careMask_decode w⟩
  · rintro ⟨hi, h⟩
    exact decode_of_and_careMask hi h

theorem wordOf_toNat (op : Nibble) (a : Index) : (wordOf op a).toNat = 16 * op.toNat + a.toNat := by
  revert op a
  decide

/-- `decode_eq_iff` for an instruction that keeps its operand: its one word, as a number. -/
theorem decode_eq_iff_toNat (w : Word) {i : Instr} {op : Nibble} {a : Index} (hm : careMask i = 0xFF#8)
    (he : encode i = wordOf op a) : decode w = i ↔ i.WellFormed ∧ w.toNat = 16 * op.toNat + a.toNat := by
  have hw : w &&& 0xFF#8 = w := BitVec.and_allOnes
  rw [decode_eq_iff, hm, hw, he, ← BitVec.toNat_inj, wordOf_toNat]

theorem plainOperand_iff (a : Index) : plainOperand a = true ↔ a.toNat ≤ 10 ∨ a.toNat = 15 := by
  revert a
  decide

theorem decode_eq_read_iff (w : Word) (a : Index) :
    decode w = .read a ↔ w.toNat = a.toNat ∧ (a.toNat ≤ 10 ∨ a.toNat = 15) := by
  rw [decode_eq_iff_toNat w (op := 0x0#4) (a := a) rfl rfl, ← plainOperand_iff, and_comm]
  simp [Instr.wellFormed]

theorem decode_eq_write_iff (w : Word) (a : Index) :
    decode w = .write a ↔ w.toNat = 0x10 + a.toNat ∧ (a.toNat ≤ 10 ∨ a.toNat = 15) := by
  rw [decode_eq_iff_toNat w (op := 0x1#4) (a := a) rfl rfl, ← plainOperand_iff, and_comm]
  simp [Instr.wellFormed]

theorem decode_eq_print_iff (w : Word) (a : Index) : decode w = .print a ↔ w.toNat = 0xB0 + a.toNat := by
  rw [decode_eq_iff_toNat w (op := 0xB#4) (a := a) rfl rfl]
  exact and_iff_right rfl

theorem decode_eq_readReg_iff (w : Word) : decode w = .readReg ↔ w &&& 0xF1#8 = 0xC1#8 := by
  rw [decode_eq_iff]
  exact and_iff_right rfl

end Sys2Proof

/-! PROOF. What the data transfer instructions do: each is one of the shared operations on its effective address
(spec/40_data_transfer.md R101, R102, R106, R107), and each shared operation has its whole frame stated once. -/

namespace Sys2Proof.Machine

theorem exec_read (a : Index) (s : State) : exec (.read a) s = nextReg s (dataWord s a) := rfl

theorem exec_write (a : Index) (s : State) :
    exec (.write a) s = nextStore s a s.reg (a == Config.haltIndex) := rfl

theorem exec_readReg (s : State) : exec .readReg s = nextReg s (dataWord s (wordIndex s.reg)) := rfl

theorem exec_print (a : Index) (s : State) :
    exec (.print a) s = nextStore s Config.outIndex (dataWord s a) false := rfl

end Sys2Proof.Machine

namespace Sys2Proof.Statements

open Sys2Proof.Machine

/-- An instruction that ends in `nextReg` writes the register and changes nothing else. -/
theorem writesRegister_of_nextReg {i : Instr} {s : State} {v : Word} (h : exec i s = nextReg s v) :
    WritesRegister i s v :=
  ⟨_, h, rfl, rfl, rfl, fun _ => rfl, fun _ => rfl, rfl, rfl⟩

/-- An instruction that ends in `nextStore` writes one DATA slot and changes nothing else. -/
theorem storesWord_of_nextStore {i : Instr} {s : State} {slot : Index} {v : Word} {halts : Bool}
    (h : exec i s = nextStore s slot v halts) : StoresWord i s slot v halts :=
  ⟨_, h, Memory.read_write_self s.data slot v, fun _ hj => Memory.read_write_of_ne s.data v hj,
    rfl, rfl, rfl, fun _ => rfl, rfl, rfl⟩

end Sys2Proof.Statements

/-! PROOF. The statements about READ, WRITE, READ_REG and PRINT (spec/40_data_transfer.md). -/

namespace Sys2Proof.Proofs

open Sys2Proof Sys2Proof.Machine Sys2Proof.Statements

/-- Settles O24: READ ends in the shared register write. -/
theorem readLoadsTheDataWord : Obligations.ReadLoadsTheDataWord :=
  ⟨decode_eq_read_iff, fun a s _ => ⟨rfl, resolve_read a s, writesRegister_of_nextReg (exec_read a s)⟩⟩

/-- Settles O25: WRITE ends in the shared store, and its halt test is on slot 15. -/
theorem writeStoresTheRegister : Obligations.WriteStoresTheRegister :=
  ⟨decode_eq_write_iff, fun a s _ => ⟨rfl, resolve_write a s, storesWord_of_nextStore (exec_write a s)⟩⟩

/-- Settles O28: the slot is the index the register's word names. -/
theorem readRegLoadsTheSlotTheRegisterNames : Obligations.ReadRegLoadsTheSlotTheRegisterNames :=
  ⟨decode_eq_readReg_iff, rfl, fun s =>
    ⟨wordIndex s.reg, wordIndex_toNat s.reg, resolve_readReg s, writesRegister_of_nextReg (exec_readReg s)⟩⟩

/-- Settles O29: PRINT ends in the shared store to the output slot, with the halt signal off. -/
theorem printCopiesToTheOutputSlot : Obligations.PrintCopiesToTheOutputSlot := fun a s =>
  ⟨fun w => decode_eq_print_iff w a, rfl, resolve_print a s, rfl, storesWord_of_nextStore (exec_print a s)⟩

end Sys2Proof.Proofs

/-! PROOF. ADD and SUB (spec/41_alu.md R143, R144): which words they are, what they execute, and their statements. -/

namespace Sys2Proof

/-- `decode_eq_iff_toNat` for an instruction that is well-formed with every operand. -/
theorem decode_eq_iff_toNat_of_wellFormed (w : Word) {i : Instr} {op : Nibble} {a : Index} (hi : i.WellFormed)
    (hm : careMask i = 0xFF#8) (he : encode i = wordOf op a) :
    decode w = i ↔ w.toNat = 16 * op.toNat + a.toNat :=
  (decode_eq_iff_toNat w hm he).trans (and_iff_right hi)

theorem decode_eq_add_iff (w : Word) (a : Index) : decode w = .add a ↔ w.toNat = 0x20 + a.toNat :=
  decode_eq_iff_toNat_of_wellFormed w (op := 0x2#4) rfl rfl rfl

theorem decode_eq_sub_iff (w : Word) (a : Index) : decode w = .sub a ↔ w.toNat = 0x30 + a.toNat :=
  decode_eq_iff_toNat_of_wellFormed w (op := 0x3#4) rfl rfl rfl

end Sys2Proof

namespace Sys2Proof.Machine

theorem exec_add (a : Index) (s : State) : exec (.add a) s = nextReg s (satAdd s.reg (dataWord s a)) := rfl

theorem exec_sub (a : Index) (s : State) : exec (.sub a) s = nextReg s (satSub s.reg (dataWord s a)) := rfl

end Sys2Proof.Machine

namespace Sys2Proof.Proofs

open Sys2Proof Sys2Proof.Machine Sys2Proof.Statements

/-- Settles O30: ADD ends in the shared register write, and the word written is the saturating sum. -/
theorem addClampsAtTheLargestWord : Obligations.AddClampsAtTheLargestWord := fun a s =>
  ⟨fun w => decode_eq_add_iff w a, rfl, resolve_add a s,
    satAdd s.reg (dataWord s a), satAdd_toNat _ _, writesRegister_of_nextReg (exec_add a s)⟩

/-- Settles O31: SUB ends in the shared register write, and the word written is the saturating difference. -/
theorem subClampsAtZero : Obligations.SubClampsAtZero := fun a s =>
  ⟨fun w => decode_eq_sub_iff w a, rfl, resolve_sub a s,
    satSub s.reg (dataWord s a), satSub_toNat _ _, writesRegister_of_nextReg (exec_sub a s)⟩

end Sys2Proof.Proofs

/-! PROOF. The control transfers (spec/42_control.md R180 to R187): which words they are, what they execute, and their
statements. A jump ends in `nextPc`; a conditional ends in `branch`, which is `nextPc` to one of two indices. -/

namespace Sys2Proof

theorem decode_eq_jump_iff (w : Word) (a : Index) : decode w = .jump a ↔ w.toNat = 0x40 + a.toNat :=
  decode_eq_iff_toNat_of_wellFormed w (op := 0x4#4) rfl rfl rfl

theorem decode_eq_ifMax_iff (w : Word) (a : Index) : decode w = .ifMax a ↔ w.toNat = 0x50 + a.toNat :=
  decode_eq_iff_toNat_of_wellFormed w (op := 0x5#4) rfl rfl rfl

theorem decode_eq_ifNotMax_iff (w : Word) (a : Index) : decode w = .ifNotMax a ↔ w.toNat = 0x60 + a.toNat :=
  decode_eq_iff_toNat_of_wellFormed w (op := 0x6#4) rfl rfl rfl

theorem decode_eq_ifMin_iff (w : Word) (a : Index) : decode w = .ifMin a ↔ w.toNat = 0x70 + a.toNat :=
  decode_eq_iff_toNat_of_wellFormed w (op := 0x7#4) rfl rfl rfl

theorem decode_eq_ifNotMin_iff (w : Word) (a : Index) : decode w = .ifNotMin a ↔ w.toNat = 0x80 + a.toNat :=
  decode_eq_iff_toNat_of_wellFormed w (op := 0x8#4) rfl rfl rfl

theorem decode_eq_jumpReg_iff (w : Word) : decode w = .jumpReg ↔ w &&& 0xF1#8 = 0xC0#8 :=
  (decode_eq_iff w .jumpReg).trans (and_iff_right rfl)

end Sys2Proof

namespace Sys2Proof.Machine

theorem exec_jump (a : Index) (s : State) : exec (.jump a) s = nextPc s a := rfl

theorem exec_jumpReg (s : State) : exec .jumpReg s = nextPc s (wordIndex s.reg) := rfl

theorem exec_ifMax (a : Index) (s : State) : exec (.ifMax a) s = branch s (regIsMax s) (.code a) := rfl

theorem exec_ifNotMax (a : Index) (s : State) : exec (.ifNotMax a) s = branch s (!regIsMax s) (.code a) := rfl

theorem exec_ifMin (a : Index) (s : State) : exec (.ifMin a) s = branch s (regIsMin s) (.code a) := rfl

theorem exec_ifNotMin (a : Index) (s : State) : exec (.ifNotMin a) s = branch s (!regIsMin s) (.code a) := rfl

theorem branch_code (s : State) (taken : Bool) (a : Index) :
    branch s taken (.code a) = nextPc s (if taken then a else advance s.pc) := rfl

theorem regIsMax_iff (s : State) : regIsMax s = true ↔ s.reg.toNat = 255 := beq_iff_eq

theorem regIsMin_iff (s : State) : regIsMin s = true ↔ s.reg.toNat = 0 := beq_iff_eq

theorem not_regIsMax_iff (s : State) : (!regIsMax s) = true ↔ s.reg.toNat ≠ 255 := by
  rw [Bool.not_eq_true', ← Bool.not_eq_true, regIsMax_iff]

theorem not_regIsMin_iff (s : State) : (!regIsMin s) = true ↔ s.reg.toNat ≠ 0 := by
  rw [Bool.not_eq_true', ← Bool.not_eq_true, regIsMin_iff]

end Sys2Proof.Machine

namespace Sys2Proof.Statements

open Sys2Proof.Machine

/-- An instruction that ends in `nextPc` sets the pc and changes nothing else. -/
theorem setsPc_of_nextPc {i : Instr} {s : State} {target : Index} (h : exec i s = nextPc s target) :
    SetsPc i s target :=
  ⟨_, h, rfl, rfl, rfl, fun _ => rfl, fun _ => rfl, rfl, rfl⟩

/-- An instruction that ends in `branch` sets the pc by its test, to the target or to the next index, and changes nothing
else. -/
theorem setsPc_of_branch {i : Instr} {s : State} {taken : Bool} {a : Index} {p : Prop} [Decidable p]
    (h : exec i s = branch s taken (.code a)) (htest : taken = true ↔ p) :
    SetsPc i s (if p then a else s.pc + 1#4) := by
  have htarget : (if taken then a else advance s.pc) = if p then a else s.pc + 1#4 := if_congr htest rfl rfl
  rw [branch_code, htarget] at h
  exact setsPc_of_nextPc h

end Sys2Proof.Statements

namespace Sys2Proof.Proofs

open Sys2Proof Sys2Proof.Machine Sys2Proof.Statements

/-- Settles O42: JUMP ends in `nextPc` to its operand. -/
theorem jumpGoesToItsOperand : Obligations.JumpGoesToItsOperand := fun a s =>
  ⟨fun w => decode_eq_jump_iff w a, rfl, resolve_jump a s, setsPc_of_nextPc (exec_jump a s)⟩

/-- Settles O43: the target is the index the register's word names. -/
theorem jumpRegGoesWhereTheRegisterSays : Obligations.JumpRegGoesWhereTheRegisterSays :=
  ⟨decode_eq_jumpReg_iff, rfl, fun s =>
    ⟨wordIndex s.reg, wordIndex_toNat s.reg, resolve_jumpReg s, setsPc_of_nextPc (exec_jumpReg s)⟩⟩

/-- Settles O44: IF_MAX branches on the test for the largest word. -/
theorem ifMaxBranchesAtTheMaximum : Obligations.IfMaxBranchesAtTheMaximum := fun a s =>
  ⟨fun w => decode_eq_ifMax_iff w a, rfl, resolve_ifMax a s, setsPc_of_branch (exec_ifMax a s) (regIsMax_iff s)⟩

/-- Settles O45: IF_NOT_MAX branches on the negation of IF_MAX's test. -/
theorem ifNotMaxBranchesBelowTheMaximum : Obligations.IfNotMaxBranchesBelowTheMaximum := fun a s =>
  ⟨fun w => decode_eq_ifNotMax_iff w a, rfl, resolve_ifNotMax a s,
    setsPc_of_branch (exec_ifNotMax a s) (not_regIsMax_iff s)⟩

/-- Settles O46: IF_MIN branches on the test for the word zero. -/
theorem ifMinBranchesAtZero : Obligations.IfMinBranchesAtZero := fun a s =>
  ⟨fun w => decode_eq_ifMin_iff w a, rfl, resolve_ifMin a s, setsPc_of_branch (exec_ifMin a s) (regIsMin_iff s)⟩

/-- Settles O47: IF_NOT_MIN branches on the negation of IF_MIN's test. -/
theorem ifNotMinBranchesAboveZero : Obligations.IfNotMinBranchesAboveZero := fun a s =>
  ⟨fun w => decode_eq_ifNotMin_iff w a, rfl, resolve_ifNotMin a s,
    setsPc_of_branch (exec_ifNotMin a s) (not_regIsMin_iff s)⟩

end Sys2Proof.Proofs

/-! PROOF. Every instruction completes (spec/60_exceptions.md R200): whichever it is, its effective address lies in the space
it uses, so `onData` and `onCode` refuse nothing and it ends in one of the three shared operations that answer a next state. -/

namespace Sys2Proof.Machine

/-- How an instruction can end: it writes the register, stores one DATA word, or only sets the pc. -/
theorem exec_cases (i : Instr) (s : State) :
    (∃ v, exec i s = nextReg s v) ∨
    (∃ slot v halts, exec i s = nextStore s slot v halts) ∨
    ∃ target, exec i s = nextPc s target := by
  cases i with
  | add a | sub a | inc | dec | not | shiftL | shiftR | and | or | xor | read a | readPtr a | readReg =>
    exact .inl ⟨_, rfl⟩
  | init | write a | writePtr a | print a => exact .inr (.inl ⟨_, _, _, rfl⟩)
  | jump a | jumpReg | ifMax a | ifNotMax a | ifMin a | ifNotMin a => exact .inr (.inr ⟨_, rfl⟩)

theorem exec_completes (i : Instr) (s : State) : ∃ t, exec i s = .next t := by
  obtain ⟨v, hreg⟩ | ⟨slot, v, halts, hstore⟩ | ⟨target, hpc⟩ := exec_cases i s
  · exact ⟨_, hreg⟩
  · exact ⟨_, hstore⟩
  · exact ⟨_, hpc⟩

end Sys2Proof.Machine

namespace Sys2Proof.Proofs

open Sys2Proof Sys2Proof.Machine

/-- Settles O10: a HALTED step answers its own state, and a RUNNING one executes an instruction, which completes. -/
theorem everyStepCompletes : Obligations.EveryStepCompletes := by
  intro s
  cases hrun : s.run with
  | halted => exact ⟨s, step_of_halted hrun⟩
  | running =>
    rw [step_of_running hrun]
    exact exec_completes (decode (fetch s)) s

end Sys2Proof.Proofs

/-! PROOF. What an instruction does, as one effect that `commit` writes (spec/40_data_transfer.md R100). The effect is a
function of the instruction, pc, register and DATA alone, so nothing else of the state can bear on it. -/

namespace Sys2Proof.Machine

/-- The effect of a sequential instruction that writes the register. -/
def Effect.load (pc : Index) (v : Word) : Effect where
  npc := advance pc
  nreg := v
  write := none
  halt := false

/-- The effect of a sequential instruction that writes one DATA slot; `halts` is the halt signal of R103. -/
def Effect.store (pc : Index) (reg : Word) (slot : Index) (v : Word) (halts : Bool) : Effect where
  npc := advance pc
  nreg := reg
  write := some (slot, v)
  halt := halts

/-- The effect of an instruction that only sets the pc. -/
def Effect.goto (reg : Word) (target : Index) : Effect where
  npc := target
  nreg := reg
  write := none
  halt := false

/-- The effect of an instruction, from the three parts of the state it depends on; `exec_eq_commit` ties it to `exec`. -/
def effectOf (i : Instr) (pc : Index) (reg : Word) (data : Memory) : Effect :=
  match i with
  | .and => .load pc (reg &&& Memory.read data 11#4)
  | .or => .load pc (reg ||| Memory.read data 12#4)
  | .init => .store pc reg 13#4 (Memory.read data 0#4) false
  | .xor => .load pc (reg ^^^ Memory.read data 14#4)
  | .read a => .load pc (Memory.read data a)
  | .write a => .store pc reg a reg (a == 15#4)
  | .add a => .load pc (satAdd reg (Memory.read data a))
  | .sub a => .load pc (satSub reg (Memory.read data a))
  | .jump a => .goto reg a
  | .ifMax a => .goto reg (if reg.toNat == 255 then a else advance pc)
  | .ifNotMax a => .goto reg (if !(reg.toNat == 255) then a else advance pc)
  | .ifMin a => .goto reg (if reg.toNat == 0 then a else advance pc)
  | .ifNotMin a => .goto reg (if !(reg.toNat == 0) then a else advance pc)
  | .readPtr a => .load pc (Memory.read data (wordIndex (Memory.read data a)))
  | .writePtr a => .store pc reg (wordIndex (Memory.read data a)) reg (wordIndex (Memory.read data a) == 15#4)
  | .print a => .store pc reg 15#4 (Memory.read data a) false
  | .not => .load pc (~~~ reg)
  | .jumpReg => .goto reg (wordIndex reg)
  | .readReg => .load pc (Memory.read data (wordIndex reg))
  | .shiftL => .load pc (shiftLeftOne reg)
  | .shiftR => .load pc (shiftRightOne reg)
  | .inc => .load pc (incWrap reg)
  | .dec => .load pc (decWrap reg)

/-- Every instruction completes, by committing its effect. -/
theorem exec_eq_commit (i : Instr) (s : State) :
    exec i s = .next (commit s (effectOf i s.pc s.reg s.data)) := by
  cases i <;> rfl

/-- Only the halt signal sets `halt`, and its effect is the register stored to the output slot (R103). -/
theorem effectOf_of_halt {i : Instr} {pc : Index} {reg : Word} {data : Memory}
    (h : (effectOf i pc reg data).halt = true) : effectOf i pc reg data = .store pc reg 15#4 reg true := by
  cases i with
  | write a | writePtr a =>
    have hslot := eq_of_beq h
    simp [effectOf, hslot]
  | _ => cases h

/-- Which instructions halt: WRITE and WRITE_PTR with the effective address DATA 15 (R103). -/
theorem effectOf_halt_iff (i : Instr) (s : State) :
    (effectOf i s.pc s.reg s.data).halt = true ↔
      ((∃ a, i = .write a) ∨ ∃ a, i = .writePtr a) ∧ resolve i s = .data 15#4 := by
  cases i with
  | write a | writePtr a => simp [effectOf, Effect.store, dataWord]
  | _ => simp [effectOf, Effect.load, Effect.store, Effect.goto]

/-- The slot an effect writes is the one the access table gives. -/
theorem effectOf_write_slot (i : Instr) (s : State) :
    (effectOf i s.pc s.reg s.data).write.map Prod.fst = Statements.storesTo i s := by
  cases i <;> rfl

/-- The register stays unless the access table lists it as written. -/
theorem effectOf_nreg {i : Instr} (pc : Index) (reg : Word) (data : Memory) (h : Statements.writesReg i = false) :
    (effectOf i pc reg data).nreg = reg := by
  cases i with
  | init | write | jump | ifMax | ifNotMax | ifMin | ifNotMin | writePtr | print | jumpReg => rfl
  | _ => cases h

/-- The effect depends on DATA only through the slots the access table lists as read. -/
theorem effectOf_congr_data {i : Instr} {s : State} {m : Memory}
    (h : ∀ j ∈ Statements.readsFrom i s, Memory.read m j = dataWord s j) :
    effectOf i s.pc s.reg m = effectOf i s.pc s.reg s.data := by
  cases i with
  | and | or | init | xor | read | write | add | sub | writePtr | print | readReg =>
    simp_all [effectOf, Statements.readsFrom, dataWord]
  | readPtr a =>
    obtain ⟨hptr, hslot⟩ : Memory.read m a = dataWord s a ∧
        Memory.read m (wordIndex (dataWord s a)) = dataWord s (wordIndex (dataWord s a)) := by
      simpa [Statements.readsFrom] using h
    simp only [dataWord] at hptr hslot
    simp only [effectOf, hptr, hslot]
  | _ => rfl

/-- The pc of a sequential instruction, or of a conditional whose test fails. -/
theorem effectOf_npc_of_not_transfers {i : Instr} {s : State} (h : ¬ Statements.TransfersControl i s) :
    (effectOf i s.pc s.reg s.data).npc = advance s.pc := by
  cases i with
  | jump | jumpReg => exact absurd trivial h
  | ifMax | ifNotMax | ifMin | ifNotMin => simp_all [Statements.TransfersControl, effectOf, Effect.goto]
  | _ => rfl

/-- The pc of an instruction that transfers control is its effective CODE address. -/
theorem resolve_of_transfers {i : Instr} {s : State} (h : Statements.TransfersControl i s) :
    resolve i s = .code (effectOf i s.pc s.reg s.data).npc := by
  cases i with
  | jump | jumpReg => rfl
  | ifMax | ifNotMax | ifMin | ifNotMin => simp_all [Statements.TransfersControl, effectOf, Effect.goto]
  | _ => exact h.elim

theorem transfers_of_category_transfer {i : Instr} (s : State) (h : category i = .transfer) :
    Statements.TransfersControl i s := by
  cases i with
  | jump | jumpReg => trivial
  | _ => cases h

theorem not_transfers_of_category_sequential {i : Instr} (s : State) (h : category i = .sequential) :
    ¬ Statements.TransfersControl i s := by
  cases i with
  | jump | jumpReg | ifMax | ifNotMax | ifMin | ifNotMin => cases h
  | _ => exact id

/-- Which instructions have the effective address NONE. -/
theorem resolve_eq_none_iff (i : Instr) (s : State) :
    resolve i s = .none ↔ i ∈ [Instr.not, .shiftL, .shiftR, .inc, .dec] := by
  cases i with
  | not | shiftL | shiftR | inc | dec => exact iff_of_true rfl (by decide)
  | _ => simp

/-- An instruction without an effective address reads no DATA and writes none. -/
theorem effectOf_of_resolve_none {i : Instr} {s : State} (h : resolve i s = .none) (m : Memory) :
    effectOf i s.pc s.reg m = effectOf i s.pc s.reg s.data ∧ (effectOf i s.pc s.reg s.data).write = none := by
  cases i with
  | not | shiftL | shiftR | inc | dec => exact ⟨rfl, rfl⟩
  | _ => simp at h

/-- The effect of the instruction that the next step fetches. -/
def fetchedEffect (s : State) : Effect := effectOf (decode (fetch s)) s.pc s.reg s.data

theorem step_eq_commit {s : State} (h : s.run = .running) : step s = .next (commit s (fetchedEffect s)) :=
  (step_of_running h).trans (exec_eq_commit _ s)

/-- Everything a step can do: nothing in HALTED, and in RUNNING the fetched instruction's effect. -/
theorem step_cases (s : State) :
    (s.run = .halted ∧ step s = .next s) ∨
    (s.run = .running ∧ step s = .next (commit s (fetchedEffect s))) := by
  cases h : s.run with
  | halted => exact .inl ⟨rfl, step_of_halted h⟩
  | running => exact .inr ⟨rfl, step_eq_commit h⟩

theorem fetchedEffect_halt_iff (s : State) : (fetchedEffect s).halt = true ↔ Statements.HaltSignal s :=
  effectOf_halt_iff (decode (fetch s)) s

theorem commit_run_eq_halted_iff {s : State} (e : Effect) (h : s.run = .running) :
    (commit s e).run = .halted ↔ e.halt = true := by
  cases hhalt : e.halt <;> simp [hhalt, h]

/-- A step that enters HALTED leaves the register in the output slot (R103). -/
theorem commit_of_halt {s : State} (h : (fetchedEffect s).halt = true) :
    commit s (fetchedEffect s) = commit s (.store s.pc s.reg 15#4 s.reg true) :=
  congrArg (commit s) (effectOf_of_halt h)

end Sys2Proof.Machine

/-! PROOF. The invariant (spec/60_exceptions.md section 2, spec/20_memory.md section 4): each clause is kept by a commit, so
every step and every run keeps it. -/

namespace Sys2Proof.Machine

theorem memoryCanonical_commit {s : State} (h : s.MemoryCanonical) (e : Effect) :
    (commit s e).MemoryCanonical :=
  ⟨h.1, wf_writeData h.2 e.write⟩

theorem haltedShowsRegister_commit {s : State} (h : s.run = .running) :
    (commit s (fetchedEffect s)).HaltedShowsRegister := by
  intro hhalted
  rw [commit_of_halt ((commit_run_eq_halted_iff _ h).mp hhalted)]
  exact Memory.read_write_self s.data 15#4 s.reg

theorem inv_step {s t : State} (hs : State.Inv s) (h : step s = .next t) : State.Inv t := by
  obtain ⟨-, hstep⟩ | ⟨hrun, hstep⟩ := step_cases s <;> cases hstep.symm.trans h
  · exact hs
  · exact ⟨memoryCanonical_commit hs.memory _, haltedShowsRegister_commit hrun, hs.snapshot⟩

/-- One step of a run that answers a next state. -/
theorem run_succ {s t : State} (h : step s = .next t) (n : Nat) :
    Host.Core.run Sys2Proof.core (n + 1) s = Host.Core.run Sys2Proof.core n t := by
  simp only [Host.Core.run, Host.Check.core_step]
  rw [h]

theorem safeRun_of_inv (n : Nat) {s : State} (hs : State.Inv s) : SafeRun n s := by
  induction n generalizing s with
  | zero => exact ⟨s, rfl, hs⟩
  | succ n ih =>
    obtain ⟨t, ht⟩ := Proofs.everyStepCompletes s
    rw [SafeRun, run_succ ht]
    exact ih (inv_step hs ht)

theorem inv_reset : State.Inv State.reset :=
  ⟨⟨rfl, rfl⟩, (fun h => nomatch h), (fun _ h => nomatch h)⟩

theorem inv_startRun {s : State} (h : s.MemoryCanonical) : State.Inv (startRun s) where
  memory := h
  halted := fun hhalted => nomatch hhalted
  snapshot := by
    intro n hn
    cases hn
    exact ⟨h.1, h.2, rfl⟩

end Sys2Proof.Machine

namespace Sys2Proof.Proofs

open Sys2Proof Sys2Proof.Machine Sys2Proof.Statements

/-- Settles O11. -/
theorem stepKeepsTheInvariant : Obligations.StepKeepsTheInvariant := fun _ _ => inv_step

/-- Settles O12, by induction on the number of steps. -/
theorem runsFromTheInvariantAreSafe : Obligations.RunsFromTheInvariantAreSafe := fun n _ => safeRun_of_inv n

/-- Settles O13. -/
theorem resetMeetsTheInvariant : Obligations.ResetMeetsTheInvariant := inv_reset

/-- Settles O14: the snapshot is the canonical memory itself. -/
theorem startingARunEstablishesTheInvariant : Obligations.StartingARunEstablishesTheInvariant :=
  fun _ => inv_startRun

/-- Settles O1. -/
theorem decodeInvertsEncode : Obligations.DecodeInvertsEncode := fun _ => decode_encode

end Sys2Proof.Proofs

/-! PROOF. The statements about decode and the encoder (spec/30_encoding.md). -/

namespace Sys2Proof

theorem opcode_toNat (w : Word) : (opcode w).toNat = w.toNat / 16 := by
  have := w.isLt
  simp only [opcode, BitVec.extractLsb'_toNat, Nat.shiftRight_eq_div_pow]
  omega

/-- The text of an instruction as the disassembler prints it (R78). -/
def Machine.instrText (i : Instr) : List Char :=
  match Machine.writtenOperand i with
  | none => Machine.mnemonic i
  | some a => Machine.mnemonic i ++ ' ' :: Machine.printOperand a

theorem Machine.disassemble_eq (w : Word) : Machine.disassemble w = Machine.instrText (decode w) := rfl

/-- The assembler reads the text of an instruction as that instruction, for every operand. -/
theorem Machine.parseLine_instrText (i : Instr) : Machine.parseLine (Machine.instrText i) = some i := by
  cases i with
  | and | or | init | xor | not | jumpReg | readReg | shiftL | shiftR | inc | dec => decide
  | read a | write a | add a | sub a | jump a | ifMax a | ifNotMax a | ifMin a | ifNotMin a | readPtr a | writePtr a
  | print a =>
    revert a
    decide

theorem Machine.assemble_instrText {i : Instr} (hi : i.WellFormed) :
    Machine.assemble (Machine.instrText i) = some (encode i) := by
  simp [Machine.assemble, Machine.parseLine_instrText, hi]

/-- A word of an opcode with a selector bit has one of six instructions, given by the bits that are not ignored (R68, R69). -/
theorem and_selectorMask_eq_encode {w : Word} (h : (w &&& 0xF0#8) ∈ [0xC0#8, 0xE0#8, 0xF0#8]) :
    ∃ i ∈ [Instr.jumpReg, .readReg, .shiftL, .shiftR, .inc, .dec], w &&& 0xF1#8 = encode i := by
  revert w
  decide

/-- Ignored bits are no part of the decoded instruction (R69). -/
theorem decode_eq_of_sameButIgnoredBits {w w' : Word} (h : Statements.SameButIgnoredBits w w') :
    decode w = decode w' := by
  obtain rfl | ⟨hw, hw'⟩ | ⟨heq, hop⟩ := h
  · rfl
  · rw [decode_of_and_careMask (i := .not) rfl hw, decode_of_and_careMask (i := .not) rfl hw']
  · obtain ⟨i, hi, henc⟩ := and_selectorMask_eq_encode hop
    have hsix : ∀ i ∈ [Instr.jumpReg, .readReg, .shiftL, .shiftR, .inc, .dec],
        i.WellFormed ∧ careMask i = 0xF1#8 := by
      decide
    obtain ⟨hwf, hmask⟩ := hsix i hi
    rw [decode_of_and_careMask hwf (hmask ▸ henc), decode_of_and_careMask hwf (hmask ▸ heq ▸ henc)]

end Sys2Proof

namespace Sys2Proof.Proofs

open Sys2Proof Sys2Proof.Machine Sys2Proof.Statements

/-- Settles O2. -/
theorem everyWordDecodesToAWellFormedInstruction : Obligations.EveryWordDecodesToAWellFormedInstruction :=
  fun w => ⟨wellFormed_decode w, decode_encode (wellFormed_decode w)⟩

/-- Settles O3, by evaluating the table on each of the 256 words. -/
theorem decodeAgreesWithTheOpcodeTable : Obligations.DecodeAgreesWithTheOpcodeTable := by
  unfold Obligations.DecodeAgreesWithTheOpcodeTable
  decide

/-- Settles O4. -/
theorem writtenOutWordsDecode : Obligations.WrittenOutWordsDecode := by
  unfold Obligations.WrittenOutWordsDecode
  decide

/-- Settles O5: READ and WRITE of a bound index are not well formed, and every decoded instruction is. -/
theorem boundOperandsSelectTheLogicOperations : Obligations.BoundOperandsSelectTheLogicOperations := by
  refine ⟨by decide, fun w b hb => ?_⟩
  have hill : ¬ (Instr.read b).WellFormed ∧ ¬ (Instr.write b).WellFormed := by
    revert b
    decide
  exact ⟨fun h => hill.1 (h ▸ wellFormed_decode w), fun h => hill.2 (h ▸ wellFormed_decode w)⟩

/-- Settles O7. -/
theorem withOperandReplacesOnlyTheOperandNibble : Obligations.WithOperandReplacesOnlyTheOperandNibble := by
  intro w i
  rw [withOperand, wordOf_toNat, opcode_toNat]

/-- Settles O8: the assembler reads back every printed instruction, and a decoded one is well formed. -/
theorem assemblingDisassemblyGivesTheCanonicalWord : Obligations.AssemblingDisassemblyGivesTheCanonicalWord :=
  ⟨fun w => (congrArg assemble (disassemble_eq w)).trans (assemble_instrText (wellFormed_decode w)),
    by decide, by decide⟩

end Sys2Proof.Proofs

/-! PROOF. The statements about one step and one instruction, each read off the effect it commits. -/

namespace Sys2Proof.Machine

/-- CODE can be replaced before or after a commit. -/
theorem commit_withCode (s : State) (e : Effect) (m : Memory) :
    commit { s with code := m } e = { commit s e with code := m } := rfl

/-- The host's fields can be replaced before or after a commit. -/
theorem commit_withHostState (s : State) (e : Effect) (c : Bool) (n : Option Snapshot) :
    commit { s with cancelReq := c, snapshot := n } e = { commit s e with cancelReq := c, snapshot := n } := rfl

/-- DATA can be replaced before or after a commit that does not write it. -/
theorem commit_withData {e : Effect} (s : State) (h : e.write = none) (m : Memory) :
    commit { s with data := m } e = { commit s e with data := m } := by
  simp [commit, h]

/-- A slot that the effect does not write is unchanged by its commit. -/
theorem dataWord_commit_of_ne {s : State} {e : Effect} {j : Index} (h : e.write.map Prod.fst ≠ some j) :
    dataWord (commit s e) j = dataWord s j :=
  read_writeData_of_ne s.data e.write j fun p hp hj => h (by simp_all)

/-- A slot that the effect writes holds the same word after its commit, whatever DATA was. -/
theorem dataWord_commit_congr {s u : State} {e : Effect} {j : Index} (h : e.write.map Prod.fst = some j) :
    dataWord (commit u e) j = dataWord (commit s e) j := by
  obtain ⟨⟨slot, v⟩, hwrite, rfl⟩ := Option.map_eq_some_iff.mp h
  simp [hwrite]

theorem fetch_withCodeAtPc (s : State) (w : Word) : fetch (Statements.withCodeAtPc s w) = w :=
  Memory.read_write_self s.code s.pc w

theorem fetchedEffect_withCodeAtPc (s : State) (w : Word) :
    fetchedEffect (Statements.withCodeAtPc s w) = effectOf (decode w) s.pc s.reg s.data :=
  congrArg (fun v => effectOf (decode v) s.pc s.reg s.data) (fetch_withCodeAtPc s w)

/-- Two words of the same instruction are stepped to the same pc, register, run state, DATA and host fields. -/
theorem step_withCodeAtPc_congr (s : State) {w w' : Word} (h : decode w = decode w') :
    ∃ t u, step (Statements.withCodeAtPc s w) = .next t ∧ step (Statements.withCodeAtPc s w') = .next u ∧
      u.pc = t.pc ∧ u.reg = t.reg ∧ u.run = t.run ∧ u.data = t.data ∧ Statements.SameHostState t u := by
  cases hrun : s.run with
  | halted =>
    exact ⟨_, _, step_of_halted hrun, step_of_halted hrun, rfl, rfl, rfl, rfl, rfl, rfl⟩
  | running =>
    refine ⟨_, _, step_eq_commit hrun, step_eq_commit hrun, ?_⟩
    rw [fetchedEffect_withCodeAtPc, fetchedEffect_withCodeAtPc, h]
    exact ⟨rfl, rfl, rfl, rfl, rfl, rfl⟩

/-- After a step the machine is HALTED exactly if it was so before or the step executed the halt signal. -/
theorem run_halted_of_step_iff {s t : State} (h : step s = .next t) :
    t.run = .halted ↔ s.run = .halted ∨ (s.run = .running ∧ Statements.HaltSignal s) := by
  obtain ⟨hrun, hstep⟩ | ⟨hrun, hstep⟩ := step_cases s <;> cases hstep.symm.trans h
  · simp [hrun]
  · rw [commit_run_eq_halted_iff _ hrun, fetchedEffect_halt_iff]
    simp [hrun]

/-- What the halting step leaves (R103): the register in the output slot, the rest of DATA and the register as they were,
and the pc advanced. -/
theorem commit_of_haltSignal {s : State} (h : Statements.HaltSignal s) :
    dataWord (commit s (fetchedEffect s)) 15#4 = s.reg ∧
      (∀ j, j ≠ 15#4 → dataWord (commit s (fetchedEffect s)) j = dataWord s j) ∧
      (commit s (fetchedEffect s)).reg = s.reg ∧ (commit s (fetchedEffect s)).pc = s.pc + 1#4 := by
  rw [commit_of_halt ((fetchedEffect_halt_iff s).mpr h)]
  exact ⟨Memory.read_write_self _ _ _, fun _ hj => Memory.read_write_of_ne _ _ hj, rfl, rfl⟩

/-- `stepCont` is `step` with the boolean read off the new run state. -/
theorem stepCont_of_step {s t : State} (h : step s = .next t) : stepCont s = .next (t, contAfter t) := by
  simp [stepCont, h]

/-- A HALTED machine stays as it is for any number of steps (R203). -/
theorem run_of_halted (n : Nat) {s : State} (h : s.run = .halted) :
    Host.Core.run Sys2Proof.core n s = .next s := by
  induction n with
  | zero => rfl
  | succ n ih => rw [run_succ (step_of_halted h), ih]

end Sys2Proof.Machine

namespace Sys2Proof.Proofs

open Sys2Proof Sys2Proof.Machine Sys2Proof.Statements

/-- Settles O6: the two words decode alike, and a step depends on the fetched word only through its instruction. -/
theorem ignoredBitsHaveNoEffect : Obligations.IgnoredBitsHaveNoEffect := fun s _ _ h =>
  step_withCodeAtPc_congr s (decode_eq_of_sameButIgnoredBits h)

/-- Settles O9. -/
theorem stepRunsTheDecodedInstruction : Obligations.StepRunsTheDecodedInstruction := fun _ =>
  ⟨step_of_running, step_of_halted⟩

/-- Settles O15, by induction on the number of steps. -/
theorem haltedMachineStaysAsItIs : Obligations.HaltedMachineStaysAsItIs := by
  intro n s h
  refine ⟨run_of_halted n h, ?_⟩
  rw [stepCont_of_step (step_of_halted h), contAfter_eq_false.mpr h]

/-- Settles O16. -/
theorem onlyTheHaltSignalHalts : Obligations.OnlyTheHaltSignalHalts := by
  intro s hrun
  refine ⟨_, step_eq_commit hrun, ?_, commit_of_haltSignal⟩
  rw [commit_run_eq_halted_iff _ hrun, fetchedEffect_halt_iff]

/-- Settles O17: the boolean is `false` exactly if the new run state is HALTED. -/
theorem stepReturnsStopExactlyOnHalt : Obligations.StepReturnsStopExactlyOnHalt := by
  intro s
  obtain ⟨t, ht⟩ := everyStepCompletes s
  exact ⟨t, contAfter t, ht, stepCont_of_step ht, contAfter_eq_false.trans (run_halted_of_step_iff ht)⟩

/-- Settles O18: the effect is no function of CODE, and a commit does not write it. -/
theorem noInstructionReadsOrWritesCode : Obligations.NoInstructionReadsOrWritesCode := by
  intro i s m
  refine ⟨_, exec_eq_commit i s, rfl, ?_⟩
  rw [exec_eq_commit, commit_withCode]

/-- Settles O19: neither field bears on the run state, the fetch or the effect, and a commit writes neither. -/
theorem stepsIgnoreCancellationAndSnapshot : Obligations.StepsIgnoreCancellationAndSnapshot := by
  intro s c n
  obtain ⟨hrun, hstep⟩ | ⟨hrun, hstep⟩ := step_cases s
  · exact ⟨s, hstep, ⟨rfl, rfl⟩, step_of_halted hrun⟩
  · refine ⟨_, hstep, ⟨rfl, rfl⟩, ?_⟩
    rw [← commit_withHostState]
    exact step_eq_commit hrun

/-- Settles O20. -/
theorem everyInstructionWritesOnlyItsRowOfTheAccessTable :
    Obligations.EveryInstructionWritesOnlyItsRowOfTheAccessTable := by
  intro i s
  refine ⟨_, exec_eq_commit i s, effectOf_nreg s.pc s.reg s.data, fun j hj => ?_, fun _ => rfl, rfl, rfl⟩
  exact dataWord_commit_of_ne (effectOf_write_slot i s ▸ hj)

/-- Settles O21: with DATA that agrees on the slots read, the effect is the same. -/
theorem everyInstructionReadsOnlyItsRowOfTheAccessTable :
    Obligations.EveryInstructionReadsOnlyItsRowOfTheAccessTable := by
  intro i s m h
  have heffect := effectOf_congr_data h
  have hslot : storesTo i { s with data := m } = storesTo i s := by
    rw [← effectOf_write_slot, ← effectOf_write_slot, heffect]
  refine ⟨_, _, exec_eq_commit i s, exec_eq_commit i { s with data := m }, ?_⟩
  rw [heffect]
  exact ⟨rfl, rfl, rfl, hslot, fun j hj => dataWord_commit_congr ((effectOf_write_slot i s).trans hj)⟩

/-- Settles O22. -/
theorem noneIsNeverDereferenced : Obligations.NoneIsNeverDereferenced := by
  refine fun i s => ⟨resolve_eq_none_iff i s, fun hnone m => ?_⟩
  obtain ⟨heffect, hwrite⟩ := effectOf_of_resolve_none hnone m
  refine ⟨_, exec_eq_commit i s, by simp [hwrite], rfl, ?_⟩
  rw [exec_eq_commit, heffect, commit_withData s hwrite]

/-- Settles O23. -/
theorem programCounterAdvancesOrTakesTheTarget : Obligations.ProgramCounterAdvancesOrTakesTheTarget := by
  refine fun i s => ⟨_, exec_eq_commit i s, resolve_of_transfers, fun h => ?_, transfers_of_category_transfer s,
    not_transfers_of_category_sequential s⟩
  rw [commit_pc, effectOf_npc_of_not_transfers h, advance_toNat]

end Sys2Proof.Proofs

/-! PROOF. The pointer instructions, the register-only instructions and the bound operations (spec/40_data_transfer.md R104,
R105; spec/41_alu.md R145 to R154): which words they are, what they execute, and their statements. -/

namespace Sys2Proof

theorem decode_eq_readPtr_iff (w : Word) (a : Index) : decode w = .readPtr a ↔ w.toNat = 0x90 + a.toNat :=
  decode_eq_iff_toNat_of_wellFormed w (op := 0x9#4) rfl rfl rfl

theorem decode_eq_writePtr_iff (w : Word) (a : Index) : decode w = .writePtr a ↔ w.toNat = 0xA0 + a.toNat :=
  decode_eq_iff_toNat_of_wellFormed w (op := 0xA#4) rfl rfl rfl

/-- `decode_eq_iff` for an instruction that every operand leaves well formed: its words, by mask and value. -/
theorem decode_eq_iff_and_eq {i : Instr} {mask value : Word} (hi : i.WellFormed) (hm : careMask i = mask)
    (he : encode i = value) (w : Word) : decode w = i ↔ w &&& mask = value := by
  rw [decode_eq_iff, hm, he]
  exact and_iff_right hi

/-- The two words of a bound operation differ in the host bit (R67). -/
theorem and_hostMask_eq_iff (a : Index) (w : Word) :
    w &&& 0xEF#8 = wordOf 0x0#4 a ↔ w = wordOf 0x0#4 a ∨ w = wordOf 0x1#4 a := by
  revert w a
  decide

/-- The words of a bound operation: its index under either host opcode. -/
theorem decode_eq_bound_iff {i : Instr} {a : Index} (hi : i.WellFormed) (hm : careMask i = 0xEF#8)
    (he : encode i = wordOf 0x0#4 a) (w : Word) : decode w = i ↔ w = wordOf 0x0#4 a ∨ w = wordOf 0x1#4 a :=
  (decode_eq_iff_and_eq hi hm he w).trans (and_hostMask_eq_iff a w)

end Sys2Proof

namespace Sys2Proof.Machine

theorem exec_readPtr (a : Index) (s : State) :
    exec (.readPtr a) s = nextReg s (dataWord s (wordIndex (dataWord s a))) := rfl

theorem exec_writePtr (a : Index) (s : State) :
    exec (.writePtr a) s =
      nextStore s (wordIndex (dataWord s a)) s.reg (wordIndex (dataWord s a) == Config.haltIndex) := rfl

theorem exec_inc (s : State) : exec .inc s = nextReg s (incWrap s.reg) := rfl

theorem exec_dec (s : State) : exec .dec s = nextReg s (decWrap s.reg) := rfl

theorem exec_not (s : State) : exec .not s = nextReg s (~~~ s.reg) := rfl

theorem exec_shiftL (s : State) : exec .shiftL s = nextReg s (shiftLeftOne s.reg) := rfl

theorem exec_shiftR (s : State) : exec .shiftR s = nextReg s (shiftRightOne s.reg) := rfl

theorem exec_and (s : State) : exec .and s = nextReg s (s.reg &&& dataWord s 11#4) := rfl

theorem exec_or (s : State) : exec .or s = nextReg s (s.reg ||| dataWord s 12#4) := rfl

theorem exec_xor (s : State) : exec .xor s = nextReg s (s.reg ^^^ dataWord s 14#4) := rfl

theorem exec_init (s : State) : exec .init s = nextStore s 13#4 (dataWord s 0#4) false := rfl

theorem shiftLeftOne_eq (x : Word) : shiftLeftOne x = x <<< 1 :=
  BitVec.eq_of_toNat_eq (by rw [shiftLeftOne_toNat]; simp [Nat.shiftLeft_eq, Nat.mul_comm])

theorem shiftRightOne_eq (x : Word) : shiftRightOne x = x >>> 1 :=
  BitVec.eq_of_toNat_eq (by rw [shiftRightOne_toNat]; simp [Nat.shiftRight_eq_div_pow])

theorem shiftLeftOne_getLsbD_zero (x : Word) : (shiftLeftOne x).getLsbD 0 = false := by
  simp [shiftLeftOne_eq]

theorem shiftLeftOne_getLsbD_succ (x : Word) {k : Nat} (hk : k < 7) :
    (shiftLeftOne x).getLsbD (k + 1) = x.getLsbD k := by
  have hk' : k + 1 < 8 := by omega
  rw [shiftLeftOne_eq, BitVec.getLsbD_shiftLeft, Nat.add_sub_cancel]
  simp [hk']

theorem shiftRightOne_getLsbD (x : Word) (k : Nat) : (shiftRightOne x).getLsbD k = x.getLsbD (k + 1) := by
  simp [shiftRightOne_eq, Nat.add_comm]

end Sys2Proof.Machine

namespace Sys2Proof.Proofs

open Sys2Proof Sys2Proof.Machine Sys2Proof.Statements

/-- Settles O26: the slot is the index that the pointer's word names. -/
theorem readPtrLoadsThroughThePointer : Obligations.ReadPtrLoadsThroughThePointer := fun a s =>
  ⟨fun w => decode_eq_readPtr_iff w a, rfl, wordIndex (dataWord s a), wordIndex_toNat _, resolve_readPtr a s,
    writesRegister_of_nextReg (exec_readPtr a s)⟩

/-- Settles O27: slot and halt test are those of the pointer's word before the store. -/
theorem writePtrStoresThroughThePointer : Obligations.WritePtrStoresThroughThePointer := fun a s =>
  ⟨fun w => decode_eq_writePtr_iff w a, rfl, wordIndex (dataWord s a), wordIndex_toNat _, resolve_writePtr a s,
    storesWord_of_nextStore (exec_writePtr a s)⟩

/-- Settles O32. -/
theorem incWrapsToZero : Obligations.IncWrapsToZero :=
  ⟨decode_eq_iff_and_eq rfl rfl rfl, rfl, fun s =>
    ⟨rfl, incWrap s.reg, incWrap_toNat s.reg, writesRegister_of_nextReg (exec_inc s)⟩⟩

/-- Settles O33. -/
theorem decWrapsToTheLargestWord : Obligations.DecWrapsToTheLargestWord :=
  ⟨decode_eq_iff_and_eq rfl rfl rfl, rfl, fun s =>
    ⟨rfl, decWrap s.reg, decWrap_toNat s.reg, writesRegister_of_nextReg (exec_dec s)⟩⟩

/-- Settles O34. -/
theorem notComplementsEveryBit : Obligations.NotComplementsEveryBit :=
  ⟨decode_eq_iff_and_eq rfl rfl rfl, rfl, fun s =>
    ⟨rfl, ~~~ s.reg, BitVec.toNat_not, fun _ hk => by simp [hk], writesRegister_of_nextReg (exec_not s)⟩⟩

/-- Settles O35. -/
theorem shiftLeftDoublesAndDropsTheTopBit : Obligations.ShiftLeftDoublesAndDropsTheTopBit :=
  ⟨decode_eq_iff_and_eq rfl rfl rfl, rfl, fun s =>
    ⟨rfl, shiftLeftOne s.reg, shiftLeftOne_toNat s.reg, shiftLeftOne_getLsbD_zero s.reg,
      fun _ => shiftLeftOne_getLsbD_succ s.reg, writesRegister_of_nextReg (exec_shiftL s)⟩⟩

/-- Settles O36. -/
theorem shiftRightHalvesAndDropsTheLowBit : Obligations.ShiftRightHalvesAndDropsTheLowBit :=
  ⟨decode_eq_iff_and_eq rfl rfl rfl, rfl, fun s =>
    ⟨rfl, shiftRightOne s.reg, shiftRightOne_toNat s.reg,
      (shiftRightOne_getLsbD s.reg 7).trans (s.reg.getLsbD_of_ge 8 le_rfl),
      fun k _ => shiftRightOne_getLsbD s.reg k, writesRegister_of_nextReg (exec_shiftR s)⟩⟩

/-- Settles O37. -/
theorem andMasksWithTheBoundSlot : Obligations.AndMasksWithTheBoundSlot :=
  ⟨decode_eq_bound_iff (a := 11#4) rfl rfl rfl, rfl, fun s =>
    ⟨resolve_and s, s.reg &&& dataWord s 11#4, fun _ _ => BitVec.getLsbD_and,
      writesRegister_of_nextReg (exec_and s)⟩⟩

/-- Settles O38. -/
theorem orJoinsTheBoundSlot : Obligations.OrJoinsTheBoundSlot :=
  ⟨decode_eq_bound_iff (a := 12#4) rfl rfl rfl, rfl, fun s =>
    ⟨resolve_or s, s.reg ||| dataWord s 12#4, fun _ _ => BitVec.getLsbD_or,
      writesRegister_of_nextReg (exec_or s)⟩⟩

/-- Settles O39. -/
theorem xorTogglesByTheBoundSlot : Obligations.XorTogglesByTheBoundSlot :=
  ⟨decode_eq_bound_iff (a := 14#4) rfl rfl rfl, rfl, fun s =>
    ⟨resolve_xor s, s.reg ^^^ dataWord s 14#4, fun _ _ => BitVec.getLsbD_xor,
      writesRegister_of_nextReg (exec_xor s)⟩⟩

/-- Settles O40: INIT ends in the shared store, with the halt signal off. -/
theorem initCopiesTheBootstrapSlot : Obligations.InitCopiesTheBootstrapSlot :=
  ⟨decode_eq_bound_iff (a := 13#4) rfl rfl rfl, rfl, fun s => ⟨resolve_init s, storesWord_of_nextStore (exec_init s)⟩⟩

/-- Settles O41: the saturating and the wrapping operations at the two ends of the range. -/
theorem addAndSubClampWhereIncAndDecWrap : Obligations.AddAndSubClampWhereIncAndDecWrap := by
  constructor
  · intro a s hreg hdata
    refine ⟨_, _, exec_add a s, ?_, exec_inc s, ?_⟩
    · show satAdd s.reg (dataWord s a) = 0xFF#8
      rw [hreg, hdata]
      decide
    · show incWrap s.reg = 0x00#8
      rw [hreg]
      decide
  · intro a s hreg hdata
    refine ⟨_, _, exec_sub a s, ?_, exec_dec s, ?_⟩
    · show satSub s.reg (dataWord s a) = 0x00#8
      rw [hreg, hdata]
      decide
    · show decWrap s.reg = 0xFF#8
      rw [hreg]
      decide

/-- Settles O48: the second test of each pair is the negation of the first. -/
theorem conditionalPairsAreComplementary : Obligations.ConditionalPairsAreComplementary := by
  intro a s
  obtain ⟨t, ht, htpc, -⟩ := setsPc_of_branch (exec_ifMax a s) (regIsMax_iff s)
  obtain ⟨u, hu, hupc, -⟩ := setsPc_of_branch (exec_ifNotMax a s) (not_regIsMax_iff s)
  obtain ⟨v, hv, hvpc, -⟩ := setsPc_of_branch (exec_ifMin a s) (regIsMin_iff s)
  obtain ⟨w, hw, hwpc, -⟩ := setsPc_of_branch (exec_ifNotMin a s) (not_regIsMin_iff s)
  refine ⟨t, u, v, w, ht, hu, hv, hw, ?_, ?_, not_not.symm, not_not.symm⟩
  · by_cases hmax : s.reg.toNat = 255
    · exact .inl ⟨by simp [htpc, hmax], by simp [hupc, hmax]⟩
    · exact .inr ⟨by simp [htpc, hmax], by simp [hupc, hmax]⟩
  · by_cases hmin : s.reg.toNat = 0
    · exact .inl ⟨by simp [hvpc, hmin], by simp [hwpc, hmin]⟩
    · exact .inr ⟨by simp [hvpc, hmin], by simp [hwpc, hmin]⟩

end Sys2Proof.Proofs

/-! PROOF. Canonical memories and image load (spec/20_memory.md section 5, spec/70_reset_and_hazards.md R220 to R229). -/

namespace Sys2Proof.Machine

theorem Memory.wfFrom_cons_iff (lo k : Nat) (v : Word) (m : Memory) :
    Memory.wfFrom lo ((k, v) :: m) = true ↔
      lo ≤ k ∧ k < 16 ∧ v ≠ 0x00#8 ∧ Memory.wfFrom (k + 1) m = true := by
  simp only [Memory.wfFrom, Bool.and_eq_true, decide_eq_true_eq, bne_iff_ne, and_assoc]
  rfl

/-- Below the first slot a canonical memory may list, every slot is empty. -/
theorem Memory.read_of_lt_of_wfFrom {lo : Nat} {m : Memory} (h : Memory.wfFrom lo m = true) {i : Index}
    (hi : i.toNat < lo) : Memory.read m i = 0x00#8 := by
  induction m generalizing lo with
  | nil => rfl
  | cons c m ih =>
    obtain ⟨k, v⟩ := c
    obtain ⟨hlo, -, -, hrest⟩ := (Memory.wfFrom_cons_iff lo k v m).mp h
    rw [Memory.read_cons, if_neg (by omega), ih hrest (by omega)]

/-- A memory that is canonical from `lo` on is the list of what its slots from `lo` on read as. -/
theorem Memory.filterMap_read_of_wfFrom {n lo : Nat} (hn : lo + n = 16) {m : Memory}
    (h : Memory.wfFrom lo m = true) :
    ((List.range' lo n).filterMap fun k =>
      if Memory.read m (BitVec.ofNat 4 k) = 0x00#8 then none else some (k, Memory.read m (BitVec.ofNat 4 k))) = m := by
  induction n generalizing lo m with
  | zero =>
    cases m with
    | nil => rfl
    | cons c m =>
      obtain ⟨hlo, hk, -⟩ := (Memory.wfFrom_cons_iff lo c.1 c.2 m).mp h
      omega
  | succ n ih =>
    have hlo : (BitVec.ofNat 4 lo).toNat = lo := by
      rw [BitVec.toNat_ofNat, Nat.mod_eq_of_lt (by omega)]
    rw [List.range'_succ, List.filterMap_cons]
    cases m with
    | nil => simp
    | cons c m =>
      obtain ⟨k, v⟩ := c
      obtain ⟨hk, hk16, hv, hrest⟩ := (Memory.wfFrom_cons_iff lo k v m).mp h
      obtain rfl | hlt := Nat.eq_or_lt_of_le hk
      · have htail : ∀ j ∈ List.range' (lo + 1) n,
            Memory.read ((lo, v) :: m) (BitVec.ofNat 4 j) = Memory.read m (BitVec.ofNat 4 j) := by
          intro j hj
          obtain ⟨hge, hlt⟩ := List.mem_range'_1.mp hj
          rw [Memory.read_cons, if_neg]
          rw [BitVec.toNat_ofNat, Nat.mod_eq_of_lt (by omega)]
          omega
        have hhead : Memory.read ((lo, v) :: m) (BitVec.ofNat 4 lo) = v := by
          rw [Memory.read_cons, if_pos hlo.symm]
        simp only [hhead, hv, if_false]
        rw [List.filterMap_congr fun j hj => by rw [htail j hj], ih (by omega) hrest]
      · have hskip : Memory.wfFrom (lo + 1) ((k, v) :: m) = true :=
          (Memory.wfFrom_cons_iff _ _ _ _).mpr ⟨hlt, hk16, hv, hrest⟩
        simp only [Memory.read_of_lt_of_wfFrom hskip (hlo.trans_lt (Nat.lt_succ_self lo)), if_true]
        exact ih (by omega) hskip

/-- A canonical memory is made from its reads. -/
theorem Memory.ofFn_read {m : Memory} (h : Memory.wf m = true) : Memory.ofFn (Memory.read m) = m :=
  Memory.filterMap_read_of_wfFrom (n := 16) (lo := 0) rfl h

theorem skippedLine_iff (l : List Char) : skippedLine l = true ↔ l = [] ∨ Config.commentMarker <+: l := by
  simp [skippedLine]

theorem imageWords_cons_of_skipped {l : List Char} (h : skippedLine l = true) (ls : List (List Char)) :
    imageWords (l :: ls) = imageWords ls := by
  simp [imageWords, h]

theorem imageWords_cons_of_not_skipped {l : List Char} (h : ¬ skippedLine l = true) (ls : List (List Char)) :
    imageWords (l :: ls) = lineWord l :: imageWords ls := by
  simp [imageWords, h]

theorem lineBit_iff (l : List Char) (k : Nat) : lineBit l k = true ↔ (l)[k]? = some Config.oneChar := by
  cases h : (l)[k]? <;> simp [lineBit, h]

/-- A number built from bits, the most significant first: bit `j` is the one that stands `j` places before the last. -/
theorem testBit_foldl_range (f : Nat → Bool) (n j : Nat) :
    ((List.range n).foldl (fun m k => 2 * m + (f k).toNat) 0).testBit j = (decide (j < n) && f (n - 1 - j)) := by
  induction n generalizing j with
  | zero => simp
  | succ n ih =>
    rw [List.range_succ, List.foldl_append]
    cases j with
    | zero => cases h : f n <;> simp [Nat.testBit_zero, h]
    | succ j =>
      have hhalf (m : Nat) : (2 * m + (f n).toNat) / 2 = m := by
        have := Bool.toNat_le (f n)
        omega
      simp only [List.foldl_cons, List.foldl_nil, Nat.testBit_succ, hhalf, ih]
      congr 2
      · simp
      · omega

/-- The first character of a line is bit 7 of its word (R228). -/
theorem lineWord_getLsbD (l : List Char) {k : Nat} (hk : k < 8) : (lineWord l).getLsbD (7 - k) = lineBit l k := by
  have hbit : 7 - k < 8 := by omega
  have hplace : 8 - 1 - (7 - k) = k := by omega
  rw [lineWord, BitVec.getLsbD_ofNat, Config.wordSize, testBit_foldl_range, hplace]
  simp [hbit]

theorem memoryCanonical_loadWords (ws : List Word) (s : State) : (loadWords ws s).MemoryCanonical := by
  simp [State.MemoryCanonical, loadWords]

end Sys2Proof.Machine

namespace Sys2Proof.Proofs

open Sys2Proof Sys2Proof.Machine Sys2Proof.Statements

/-- Settles O49: the primitives are read over write, and an instruction that completes is not refused. -/
theorem memoryPrimitivesReplaceOneSlot : Obligations.MemoryPrimitivesReplaceOneSlot := by
  refine ⟨fun m i v => ⟨Memory.read_write_self m i v, fun _ hj => Memory.read_write_of_ne m v hj⟩, ?_⟩
  intro i s r hrefused
  cases (exec_eq_commit i s).symm.trans hrefused

/-- Settles O50: each of the two is made from its reads. -/
theorem canonicalMemoriesThatReadAlikeAreEqual : Obligations.CanonicalMemoriesThatReadAlikeAreEqual := by
  intro m n hm hn h
  rw [← Memory.ofFn_read hm, ← Memory.ofFn_read hn, funext h]

/-- Settles O51. -/
theorem cpuResetKeepsMemory : Obligations.CpuResetKeepsMemory := fun s =>
  ⟨freshCpu_code s, freshCpu_data s, freshCpu_pc s, freshCpu_reg s, freshCpu_run s, freshCpu_cancelReq s⟩

/-- Settles O52. -/
theorem newMemoryIsZeroUntilAnImageIsLoaded : Obligations.NewMemoryIsZeroUntilAnImageIsLoaded := by
  refine ⟨fun _ => ⟨rfl, rfl⟩, fun lines i => ?_⟩
  rw [List.getD_eq_getElem?_getD, List.getD_eq_getElem?_getD]
  exact ⟨codeWord_loadWords _ State.reset i, dataWord_loadWords _ State.reset i⟩

/-- Settles O53. -/
theorem imageLoadFillsCodeThenData : Obligations.ImageLoadFillsCodeThenData := by
  refine ⟨rfl, fun l ls => ?_, fun l k hk => ?_, fun lines s => ⟨_, rfl, fun i => ?_, fun i => ?_,
    memoryCanonical_loadWords _ s, rfl, rfl, rfl, rfl, rfl⟩, fun _ => rfl⟩
  · split_ifs with hskip
    · exact imageWords_cons_of_skipped ((skippedLine_iff l).mpr hskip) ls
    · exact imageWords_cons_of_not_skipped (mt (skippedLine_iff l).mp hskip) ls
  · rw [lineWord_getLsbD l hk, lineBit_iff]
  · rw [codeWord_loadWords, List.getD_eq_getElem?_getD]
  · rw [dataWord_loadWords, List.getD_eq_getElem?_getD]

end Sys2Proof.Proofs

/-! PROOF. The run transaction and cancellation (spec/70_reset_and_hazards.md R221, R225, R226, R232; spec/60_exceptions.md
R202, R204, R205). -/

namespace Sys2Proof.Machine

theorem snapshot_of_step {s t : State} (h : step s = .next t) : t.snapshot = s.snapshot := by
  obtain ⟨-, hstep⟩ | ⟨-, hstep⟩ := step_cases s <;> cases hstep.symm.trans h <;> rfl

theorem cancelReq_of_step {s t : State} (h : step s = .next t) : t.cancelReq = s.cancelReq := by
  obtain ⟨-, hstep⟩ | ⟨-, hstep⟩ := step_cases s <;> cases hstep.symm.trans h <;> rfl

/-- A step that ends in RUNNING began there (R203). -/
theorem running_of_step {s t : State} (h : step s = .next t) (ht : t.run = .running) : s.run = .running := by
  obtain ⟨hrun, hstep⟩ | ⟨hrun, -⟩ := step_cases s
  · cases hstep.symm.trans h
    exact ht
  · exact hrun

/-- A run of steps that ends in RUNNING began there. -/
theorem running_of_run {n : Nat} {s t : State} (h : Host.Core.run Sys2Proof.core n s = .next t)
    (ht : t.run = .running) : s.run = .running := by
  cases hrun : s.run with
  | running => rfl
  | halted =>
    rw [run_of_halted n hrun] at h
    cases h
    exact hrun.symm.trans ht

/-- Everything one turn of the run controller can do: it keeps the snapshot, and the run goes on or ends. -/
theorem controlTick_cases (s : State) :
    ∃ t, t.snapshot = s.snapshot ∧
      (controlTick s = .next (.active t) ∨ ∃ r, controlTick s = .next (.ended r (endRun t))) := by
  cases hc : s.cancelReq with
  | true => exact ⟨s, rfl, .inr ⟨_, controlTick_of_cancel hc⟩⟩
  | false =>
    obtain ⟨t, ht⟩ := Proofs.everyStepCompletes s
    refine ⟨t, snapshot_of_step ht, ?_⟩
    rw [controlTick_of_step hc ht]
    cases hrun : t.run with
    | running => exact .inl rfl
    | halted => exact .inr ⟨_, rfl⟩

/-- Everything the loop can do: it keeps the snapshot, and the run goes on or ends. -/
theorem runLoop_cases (cs : List Bool) (s : State) :
    ∃ t, t.snapshot = s.snapshot ∧
      (runLoop cs s = .next (.active t) ∨ ∃ r, runLoop cs s = .next (.ended r (endRun t))) := by
  induction cs generalizing s with
  | nil => exact ⟨s, rfl, .inl rfl⟩
  | cons c cs ih =>
    have hrequest : (if c then requestCancel s else s).snapshot = s.snapshot := by
      cases c <;> rfl
    obtain ⟨t, ht, hactive | ⟨r, hended⟩⟩ := controlTick_cases (if c then requestCancel s else s)
    · rw [runLoop_of_active hactive, ← hrequest, ← ht]
      exact ih t
    · exact ⟨t, ht.trans hrequest, .inr ⟨r, runLoop_of_ended hended⟩⟩

/-- Run end makes a fresh CPU state, so a pending cancellation is forgotten (R226). -/
theorem endRun_requestCancel (s : State) : endRun (requestCancel s) = endRun s := by
  cases h : s.snapshot <;> simp [endRun, restoreMemory, requestCancel, freshCpu, h]

/-- The loop without cancellations goes on for as many turns as there are steps that end in RUNNING. -/
theorem runLoop_of_run {n : Nat} {s t : State} (hc : s.cancelReq = false)
    (h : Host.Core.run Sys2Proof.core n s = .next t) (ht : t.run = .running) (rest : List Bool) :
    t.cancelReq = false ∧ runLoop (List.replicate n false ++ rest) s = runLoop rest t := by
  induction n generalizing s with
  | zero =>
    cases h
    exact ⟨hc, rfl⟩
  | succ n ih =>
    obtain ⟨u, hu⟩ := Proofs.everyStepCompletes s
    rw [run_succ hu] at h
    have hactive : controlTick (if false then requestCancel s else s) = .next (.active u) := by
      simpa [running_of_run h ht] using controlTick_of_step hc hu
    rw [List.replicate_succ, List.cons_append, runLoop_of_active hactive]
    exact ih ((cancelReq_of_step hu).trans hc) h

end Sys2Proof.Machine

namespace Sys2Proof.Proofs

open Sys2Proof Sys2Proof.Machine Sys2Proof.Statements

/-- Settles O54: the loop keeps the snapshot that the start of the run took, and run end restores it. -/
theorem runRestoresTheMemory : Obligations.RunRestoresTheMemory := by
  intro cancels s t r h
  obtain ⟨u, hu, hactive | ⟨r', hended⟩⟩ := runLoop_cases cancels (startRun s)
  · cases hactive.symm.trans h
  · cases hended.symm.trans h
    rw [endRun_of_snapshot (hu.trans (startRun_snapshot s))]
    exact ⟨rfl, rfl, rfl, rfl, rfl, rfl, rfl⟩

/-- Settles O55. -/
theorem runControllerAlwaysAnswers : Obligations.RunControllerAlwaysAnswers := by
  intro cancels s
  obtain ⟨t, -, hactive | ⟨r, hended⟩⟩ := runLoop_cases cancels (startRun s)
  · exact ⟨_, hactive⟩
  · exact ⟨_, hended⟩

/-- Settles O56: the loop reaches `t` and the next turn finds the cancellation pending. -/
theorem cancellationEndsTheRunAfterAnyNumberOfSteps : Obligations.CancellationEndsTheRunAfterAnyNumberOfSteps := by
  intro n s t rest h ht
  obtain ⟨-, hloop⟩ := runLoop_of_run (startRun_cancelReq s) h ht (true :: rest)
  have hended : controlTick (if true then requestCancel t else t)
      = .next (.ended { reason := .cancel, reg := t.reg } (endRun t)) := by
    rw [if_pos rfl, controlTick_of_cancel (requestCancel_cancelReq t), endRun_requestCancel, requestCancel_reg]
  rw [runUntilHaltOrCancel, hloop, runLoop_of_ended hended]

/-- Settles O57: the loop reaches `t` and the next turn's step halts. -/
theorem runEndsAtTheFirstHalt : Obligations.RunEndsAtTheFirstHalt := by
  intro n s t u rest h ht hu hhalted
  obtain ⟨hc, hloop⟩ := runLoop_of_run (startRun_cancelReq s) h ht (false :: rest)
  have hended : controlTick (if false then requestCancel t else t)
      = .next (.ended { reason := .halt, reg := u.reg } (endRun u)) := by
    simpa [hhalted] using controlTick_of_step hc hu
  constructor
  · rw [runUntilHaltOrCancel, List.replicate_succ', List.append_assoc, List.singleton_append, hloop,
      runLoop_of_ended hended]
  · cases (step_eq_commit ht).symm.trans hu
    exact haltedShowsRegister_commit ht hhalted

end Sys2Proof.Proofs

/-! PROOF. The binding query (spec/30_encoding.md R76) and the parameters (spec/00_scope.md R6). -/

namespace Sys2Proof.Machine

theorem mem_allIndices (k : Index) : k ∈ allIndices := by
  revert k
  decide

theorem isBoundOperation_iff (i : Instr) : isBoundOperation i = true ↔ i ∈ [Instr.and, .or, .init, .xor] := by
  cases i <;> simp [isBoundOperation]

theorem operand_eq_iff (w : Word) (i : Index) : operand w = i ↔ w.toNat % 16 = i.toNat := by
  rw [← wordIndex_toNat, BitVec.toNat_inj]
  rfl

theorem lastNonEmpty_eq_none_iff (s : State) : lastNonEmpty s = none ↔ ∀ n, codeWord s n = 0x00#8 := by
  simp [lastNonEmpty, mem_allIndices]

/-- The scan finds a slot that is not empty, and no such slot lies above it. -/
theorem lastNonEmpty_eq_some {s : State} {m : Index} (h : lastNonEmpty s = some m) :
    codeWord s m ≠ 0x00#8 ∧ ∀ n, codeWord s n ≠ 0x00#8 → n.toNat ≤ m.toNat := by
  obtain ⟨hm, above, below, hsplit, hempty⟩ := List.find?_eq_some_iff_append.mp h
  refine ⟨by simpa using hm, fun n hn => ?_⟩
  have hfalling : (above ++ m :: below).Pairwise fun j k : Index => k.toNat ≤ j.toNat := by
    rw [← hsplit]
    decide
  have hmem : n ∈ above ++ m :: below := hsplit ▸ List.mem_reverse.mpr (mem_allIndices n)
  obtain habove | hbelow := List.mem_append.mp hmem
  · exact absurd (hempty n habove) (by simpa using hn)
  · obtain rfl | hbelow := List.mem_cons.mp hbelow
    · exact le_rfl
    · exact List.rel_of_pairwise_cons (List.pairwise_append.mp hfalling).2.1 hbelow

theorem boundAt_of_lastNonEmpty {s : State} {m : Index} (h : lastNonEmpty s = some m) (i : Index) :
    boundAt s i = true ↔ ∃ k : Index, k.toNat ≤ m.toNat ∧
      decode (codeWord s k) ∈ [Instr.and, .or, .init, .xor] ∧ (codeWord s k).toNat % 16 = i.toNat := by
  simp only [boundAt, h, List.any_eq_true, mem_allIndices, true_and, Bool.and_eq_true, decide_eq_true_eq, beq_iff_eq,
    isBoundOperation_iff, operand_eq_iff, and_assoc]

end Sys2Proof.Machine

namespace Sys2Proof.Proofs

open Sys2Proof Sys2Proof.Machine Sys2Proof.Statements

/-- Settles O58: a slot lies at or below a slot that is not empty exactly if it lies at or below the last of them. -/
theorem bindingQueryFindsEffectiveBoundOperations : Obligations.BindingQueryFindsEffectiveBoundOperations := by
  intro s i
  cases hlast : lastNonEmpty s with
  | none =>
    have hempty := (lastNonEmpty_eq_none_iff s).mp hlast
    simp [boundAt, hlast, hempty]
  | some m =>
    obtain ⟨hm, hmax⟩ := lastNonEmpty_eq_some hlast
    rw [boundAt_of_lastNonEmpty hlast]
    constructor
    · rintro ⟨k, hk, hbound⟩
      exact ⟨k, m, hk, hm, hbound⟩
    · rintro ⟨k, n, hk, hn, hbound⟩
      exact ⟨k, hk.trans (hmax n hn), hbound⟩

/-- Settles O59. -/
theorem parametersAreAdmitted : Obligations.ParametersAreAdmitted := by
  unfold Obligations.ParametersAreAdmitted
  decide

end Sys2Proof.Proofs
